-- ==== Sys2Proof/Word.lean ====
section
/-! DEFINITION. The word types of HUFF-CORE (spec 10_state.md R32). Every value is unsigned (00_scope.md R10). -/

namespace Sys2Proof

/-- A symbol, an output byte or a code length. -/
abbrev Byte := BitVec 8

/-- A command word, a register value, a frequency or a node weight. -/
abbrev Word := BitVec 32

/-- A bit or byte counter (00_scope.md R8, COUNTER64_W). -/
abbrev Word64 := BitVec 64

/-- A node index (00_scope.md R8, NODE_IDX_W). -/
abbrev NodeIdx := BitVec 9

/-- A code as a number, its first bit the most significant of its length (00_scope.md R11). -/
abbrev Code := BitVec 255

end Sys2Proof
end

