-- ==== Sys2Proof/Syntax.lean ====
section
/-! DEFINITION. The commands of HUFF-CORE: one constructor per row of spec/opcode_table.json (30_encoding.md R124). -/

namespace Sys2Proof

/-- A command. Operands are assembled as 30_encoding.md R123 says, with no extension. -/
inductive Instr where
  /-- NOP, format C0 (45_control.md R300). -/
  | nop
  /-- CLEAR, format C0 (45_control.md R303). -/
  | clear
  /-- COUNT, format C1: BYTE (40_frequency.md R160). -/
  | count (byte : Byte)
  /-- BUILD, format C0 (42_tree.md R210). -/
  | build
  /-- ENCODE, format C1: BYTE (44_bitpacker.md R263). -/
  | encode (byte : Byte)
  /-- FLUSH, format C0 (44_bitpacker.md R264). -/
  | flush
  /-- PACK_RAW, format C2: NBITS and RAW, the whole 16-bit field (44_bitpacker.md R265). -/
  | packRaw (nbits : BitVec 5) (raw : BitVec 16)
deriving DecidableEq, Repr

end Sys2Proof
end

