-- ==== Sys2Proof/WellFormed.lean ====
section
/-! DEFINITION. Which command terms some word encodes (spec 30_encoding.md R123, R124). -/

namespace Sys2Proof

/-- PACK_RAW's extra constraint of 30_encoding.md R124: 1 <= NBITS <= 16. -/
def nbitsLegal (nbits : BitVec 5) : Bool := decide (1 ≤ nbits.toNat ∧ nbits.toNat ≤ 16)

/-- Every operand is at its field's width by type; the one further check is PACK_RAW's NBITS. -/
def Instr.wellFormed : Instr → Bool
  | .nop => true
  | .clear => true
  | .count _ => true
  | .build => true
  | .encode _ => true
  | .flush => true
  | .packRaw nbits _ => nbitsLegal nbits

end Sys2Proof
end

