-- ==== Sys2Proof/Decode.lean ====
section
/-! DEFINITION. The decoder of 30_encoding.md R125, total on every 32-bit word, and the encoder of 30_encoding.md R122 to R124. -/

namespace Sys2Proof

/-- Why a word is ILLEGAL: the three kinds of 30_encoding.md R126. -/
inductive Illegal where
  /-- Opcodes 0x07 to 0xFF. -/
  | reservedOpcode
  /-- A nonzero ZERO field of format C0, C1 or C2. -/
  | zeroField
  /-- PACK_RAW with NBITS = 0, or NBITS from 17 to 31. -/
  | nbitsRange
deriving DecidableEq, Repr

/-- Format C0 (30_encoding.md R122): no operand, bits 31:8 must be 0. -/
def decodeC0 (w : Word) (i : Instr) : Except Illegal Instr :=
  if w.extractLsb' 8 24 = 0 then .ok i else .error .zeroField

/-- Format C1 (30_encoding.md R122): BYTE in bits 15:8, bits 31:16 must be 0. -/
def decodeC1 (w : Word) (mk : Byte → Instr) : Except Illegal Instr :=
  if w.extractLsb' 16 16 = 0 then .ok (mk (w.extractLsb' 8 8)) else .error .zeroField

/-- Format C2 (30_encoding.md R122): RAW in bits 31:16, bits 15:13 must be 0, NBITS in bits 12:8, from 1 to 16. -/
def decodeC2 (w : Word) (mk : BitVec 5 → BitVec 16 → Instr) : Except Illegal Instr :=
  if w.extractLsb' 13 3 ≠ 0 then .error .zeroField
  else if nbitsLegal (w.extractLsb' 8 5) then .ok (mk (w.extractLsb' 8 5) (w.extractLsb' 16 16))
  else .error .nbitsRange

/-- `decode(w)` of 30_encoding.md R125; an ILLEGAL word is rejected under the name of its kind. -/
def decode (w : Word) : Except Illegal Instr :=
  match (w.extractLsb' 0 8).toNat with
  | 0x00 => decodeC0 w .nop
  | 0x01 => decodeC0 w .clear
  | 0x02 => decodeC1 w .count
  | 0x03 => decodeC0 w .build
  | 0x04 => decodeC1 w .encode
  | 0x05 => decodeC0 w .flush
  | 0x06 => decodeC2 w .packRaw
  | _ => .error .reservedOpcode

/-- A word of format C0. -/
def encodeC0 (op : Byte) : Word := 0#24 ++ op

/-- A word of format C1. -/
def encodeC1 (op byte : Byte) : Word := 0#16 ++ byte ++ op

/-- A word of format C2. -/
def encodeC2 (op : Byte) (nbits : BitVec 5) (raw : BitVec 16) : Word := raw ++ 0#3 ++ nbits ++ op

/-- The word of a command (30_encoding.md R122, R124). -/
def encode : Instr → Word
  | .nop => encodeC0 0x00
  | .clear => encodeC0 0x01
  | .count b => encodeC1 0x02 b
  | .build => encodeC0 0x03
  | .encode b => encodeC1 0x04 b
  | .flush => encodeC0 0x05
  | .packRaw n r => encodeC2 0x06 n r

/-- `match` of the command's row of opcode_table.json. -/
def tableMatch : Instr → Word
  | .nop => 0x00000000
  | .clear => 0x00000001
  | .count _ => 0x00000002
  | .build => 0x00000003
  | .encode _ => 0x00000004
  | .flush => 0x00000005
  | .packRaw _ _ => 0x00000006

/-- `mask` of the command's row of opcode_table.json. -/
def tableMask : Instr → Word
  | .nop => 0xFFFFFFFF
  | .clear => 0xFFFFFFFF
  | .count _ => 0xFFFF00FF
  | .build => 0xFFFFFFFF
  | .encode _ => 0xFFFF00FF
  | .flush => 0xFFFFFFFF
  | .packRaw _ _ => 0x0000E0FF

/-- What the decoder reads from a table row's word: a command is one 32-bit word (30_encoding.md R120). -/
def decodeTableWord (nbits w : Nat) : Option Instr :=
  (decode (BitVec.ofNat 32 (w % 2 ^ nbits))).toOption

end Sys2Proof
end

