-- ==== Sys2Proof/Config.lean ====
section
/-! DEFINITION. What an implementation of HUFF-CORE fixes (spec 00_scope.md R8, R9), and the model's one free value. -/

namespace Sys2Proof

/-- NSYM_MAX (00_scope.md R8). -/
def Config.nsymMax : Nat := 256

/-- NODE_MAX (00_scope.md R8). -/
def Config.nodeMax : Nat := 511

/-- HEAP_CAP (00_scope.md R8). -/
def Config.heapCap : Nat := 256

/-- MAX_CODE_LEN (00_scope.md R8). -/
def Config.maxCodeLen : Nat := 255

/-- TOTAL_MAX: the most bytes one session counts (00_scope.md R8). -/
def Config.totalMax : Word := 0xFFFFFFFF

/-- WINDOW: the bytes of register space (00_scope.md R8). -/
def Config.window : Nat := 0x8000

/-- The constant ID register, "HUFF" (10_state.md R46). -/
def Config.idValue : Word := 0x48554646

/-- FREE VALUE (notes/assumptions/4.md): what the `n`-th read of a register that is not exact while BUSY = 1 returns
(20_memory.md R90: "an unspecified value, which may differ from read to read"). It has no body, so no proof can rest on it. -/
opaque Config.busyRead : Nat → Word

/-- BUS_ENDIAN (00_scope.md R9). -/
inductive Endian where
  | little
  | big
deriving DecidableEq, Repr

/-- The open parameters of 00_scope.md R9. They are fixed for a machine, and every definition that needs one takes it from here
(notes/assumptions/2.md). -/
structure Params where
  /-- HUFF_BASE: the host bus address of the register window. -/
  huffBase : Nat
  /-- OUT_FIFO_DEPTH: how many bytes the output FIFO holds. -/
  outFifoDepth : Nat
  /-- BUS_ENDIAN: read by no rule (20_memory.md R93). -/
  busEndian : Endian
deriving DecidableEq, Repr

/-- The ranges of 00_scope.md R9. -/
abbrev Params.wf (p : Params) : Prop :=
  p.huffBase % Config.window = 0 ∧ 1 ≤ p.outFifoDepth ∧ p.outFifoDepth ≤ 65535

/-- The constant CAPS register (10_state.md R46): bits 15:0 the depth, bits 24:16 0x0FF, which is
NSYM_MAX - 1, bits 31:25 zero. -/
def Params.caps (p : Params) : Word := BitVec.ofNat 16 (Config.nsymMax - 1) ++ BitVec.ofNat 16 p.outFifoDepth

/-- The instance of the open parameters that `State.reset` names: DESIGN CHOICE, unsafe (notes/assumptions/2.md). -/
def Config.resetParams : Params := ⟨0, 65535, .little⟩

/-- The bytes of a register value on the four byte lanes of the host bus, lowest bus address first (20_memory.md R93,
notes/assumptions/17.md). -/
def Config.lanes (e : Endian) (v : Word) : List Byte :=
  let b := [v.extractLsb' 0 8, v.extractLsb' 8 8, v.extractLsb' 16 8, v.extractLsb' 24 8]
  match e with
  | .little => b
  | .big => b.reverse

/-- The register value that four byte lanes carry. -/
def Config.ofLanes (e : Endian) (b : List Byte) : Word :=
  let at' (i : Nat) : Word := (b.getD i 0).setWidth 32
  match e with
  | .little => at' 0 ||| at' 1 <<< 8 ||| at' 2 <<< 16 ||| at' 3 <<< 24
  | .big => at' 3 ||| at' 2 <<< 8 ||| at' 1 <<< 16 ||| at' 0 <<< 24

end Sys2Proof
end

