-- ==== Sys2Proof/Machine/Table.lean ====
section
/-! DEFINITION. A hardware table of a fixed number of like entries (FREQ, CODE_LEN, CODE_VAL, NODE, HEAP of spec 10_state.md R32). -/

namespace Sys2Proof.Machine

/-- A table of `n` entries, held as a list of that length so that two tables compare entry by entry. -/
structure Table (α : Type) (n : Nat) where
  entries : List α
  size_eq : entries.length = n
deriving DecidableEq, Repr

/-- The table with the same value in every entry. -/
def Table.fill {α : Type} {n : Nat} (v : α) : Table α n :=
  ⟨List.replicate n v, List.length_replicate⟩

/-- `T[i]`; `d` at an index the table does not have. -/
def Table.read {α : Type} {n : Nat} (t : Table α n) (d : α) (i : Nat) : α := t.entries.getD i d

/-- `T[i] <- v`; nothing at an index the table does not have. -/
def Table.write {α : Type} {n : Nat} (t : Table α n) (i : Nat) (v : α) : Table α n :=
  ⟨t.entries.set i v, by rw [List.length_set]; exact t.size_eq⟩

/-- `T[i] <- v0; T[i+1] <- v1; ...` for a list of values. -/
def Table.writeFrom {α : Type} {n : Nat} : Nat → List α → Table α n → Table α n
  | _, [], t => t
  | i, v :: vs, t => Table.writeFrom (i + 1) vs (t.write i v)

end Sys2Proof.Machine
end

