-- ==== Sys2Proof/Machine/State.lean ====
section
/-! DEFINITION. The state of HUFF-CORE as plain data: everything spec 10_state.md R32 lists, the command in flight, and the host that
drives the core (00_scope.md R6). INVENTORY.md, '## State', lists every field with its rule. -/

namespace Sys2Proof.Machine

/-- SEQ_PHASE (10_state.md R33). -/
inductive Phase where
  | collect
  | ready
deriving DecidableEq, Repr

/-- ERR_CODE: the codes 0 to 6 of 60_exceptions.md R340; 7 to 15 are never produced. -/
inductive ErrCode where
  | none
  | emptyInput
  | freqOverflow
  | sequence
  | illegalCommand
  | uncodedSymbol
  | busyViolation
deriving DecidableEq, Repr

/-- NODE[i].KIND (10_state.md R40). -/
inductive NodeKind where
  | leaf
  | internal
deriving DecidableEq, Repr

/-- One entry of the node arena (10_state.md R40). -/
structure Node where
  kind : NodeKind
  sym : Byte
  w : Word
  left : NodeIdx
  right : NodeIdx
deriving DecidableEq, Repr

/-- The all-zero entry: a leaf of symbol 0 and weight 0. -/
def Node.zero : Node := ⟨.leaf, 0, 0, 0, 0⟩

/-- HEAP[0..255] and HSIZE (10_state.md R41). No access reads either. -/
structure Heap where
  slot : Table NodeIdx 256
  size : Nat
deriving DecidableEq, Repr

/-- The command in flight and what it has still to do: BUSY = 1 exactly while this is not `idle` (10_state.md R34, R48;
notes/assumptions/6.md, 9.md). NOP, CLEAR and every command that raises an error are never in flight. -/
inductive Flight where
  /-- No command in flight. -/
  | idle
  /-- COUNT of the byte. -/
  | count (byte : Byte)
  /-- BUILD, its tie mode sampled. -/
  | build
  /-- ENCODE (`enc`) or PACK_RAW: the bits not yet written, first bit first, and how many the command writes in all. -/
  | write (bits : List Bool) (total : Nat) (enc : Bool)
  /-- FLUSH. -/
  | flush
deriving DecidableEq, Repr

/-- How far the core moves before the host's next access: the interleaving of the two agents, as data (notes/assumptions/5.md). -/
inductive Pace where
  /-- Until no command is in flight, or the one in flight waits for FIFO room. -/
  | full
  /-- At most `k` steps of the command in flight. -/
  | steps (k : Nat)
deriving DecidableEq, Repr

/-- What the host, or the platform, does next. -/
inductive HostOp where
  /-- A read of `width` bytes at a host bus address (20_memory.md R85). -/
  | read (addr width : Nat)
  /-- A write of `width` bytes at a host bus address (20_memory.md R86). -/
  | write (addr width : Nat) (v : Word)
  /-- The host statement WAIT (30_encoding.md R127). -/
  | wait
  /-- The host statement DRAIN (30_encoding.md R127). -/
  | drain
  /-- The platform asserts and releases reset (70_reset_and_hazards.md R380). -/
  | reset
  /-- The host's serializer starts FILE with the header and the records, from what the host read last (46_host_serializer.md R323, step 3). -/
  | writeHeader
  /-- The host's serializer appends the packed bytes of the session to FILE (46_host_serializer.md R321). -/
  | writePacked
deriving DecidableEq, Repr

/-- One entry of the host's list: what it does, and how far the core moves afterwards. -/
structure HostAccess where
  op : HostOp
  pace : Pace
deriving DecidableEq, Repr

/-- The machine's state. -/
structure State where
  /-- The open parameters of 00_scope.md R9; no step changes them. -/
  params : Params
  /-- CTRL.TIE. -/
  tie : Bool
  /-- TIE_USED. -/
  tieUsed : Bool
  /-- SEQ_PHASE. -/
  seqPhase : Phase
  /-- The command in flight; BUSY is `State.busy`. -/
  flight : Flight
  /-- ERR_CODE. -/
  errCode : ErrCode
  /-- ERR_CMD. -/
  errCmd : Word
  /-- FREQ[0..255]. -/
  freq : Table Word 256
  /-- TOTAL_LEN. -/
  totalLen : Word
  /-- NSYM. -/
  nsym : BitVec 9
  /-- NODE[0..510]. -/
  node : Table Node 511
  /-- NNODES. -/
  nnodes : BitVec 10
  /-- ROOT. -/
  root : NodeIdx
  /-- HEAP and HSIZE. -/
  heap : Heap
  /-- CODE_LEN[0..255]. -/
  codeLen : Table Byte 256
  /-- CODE_VAL[0..255]. -/
  codeVal : Table Code 256
  /-- MAX_LEN. -/
  maxLen : Byte
  /-- EXP_BITS. -/
  expBits : Word64
  /-- ACC. -/
  acc : Byte
  /-- BITCNT. -/
  bitcnt : BitVec 3
  /-- LAST_PAD. -/
  lastPad : BitVec 3
  /-- DATA_BITS. -/
  dataBits : Word64
  /-- OUT_BYTES. -/
  outBytes : Word64
  /-- ENC_COUNT. -/
  encCount : Word64
  /-- OUTQ, its head first. -/
  outq : List Byte
  /-- The host's pending accesses, the next one first. -/
  hostq : List HostAccess
  /-- The pace of the access the host made last. -/
  pace : Pace
  /-- The values the host's reads returned, the oldest first. -/
  hostRd : List Word
  /-- HOSTOUT: every byte the host popped since its script started, the oldest first (30_encoding.md R127). -/
  hostOut : List Byte
  /-- The bytes the host popped in this session, the oldest first (46_host_serializer.md R320; 00_scope.md, glossary: Session). -/
  sessionOut : List Byte
  /-- FILE, as far as the host's serializer has written it (46_host_serializer.md R320, R321). -/
  file : List Byte
  /-- How many free values have been drawn (notes/assumptions/4.md). -/
  draws : Nat
deriving DecidableEq, Repr

/-- Why the machine stops with a fault. Each is an internal condition that 60_exceptions.md R357 says cannot occur and that a model
should define as a fault (notes/assumptions/7.md): safe, since the model stops where the spec says nothing. -/
inductive Fault where
  /-- insert with HSIZE = 256 (41_heap.md R184). Raised by `Heap.insert`. Safe. -/
  | heapOverflow
  /-- extract_min with HSIZE = 0 (41_heap.md R185). Raised by `Heap.extractMin`. Safe. -/
  | heapUnderflow
  /-- A weight sum above 2^32 - 1 (42_tree.md R216). Raised by `mergeOnce`. Safe. -/
  | weightOverflow
  /-- A code length above 255 (43_codegen.md R244). Raised by `walkCodes`. Safe. -/
  | codeLenOverflow
  /-- NNODES above 511 (10_state.md R40). Raised by `mergeOnce`. Safe. -/
  | nodeOverflow
  /-- The tree walk of 43_codegen.md R240 visits more than 511 nodes, the arena's size. Raised by `walkCodes`. Safe. -/
  | walkOverrun
deriving DecidableEq, Repr

/-- Why a step has no meaning. -/
inductive Refusal where
  /-- The command has no meaning yet. Raised by no arm of `exec`. Safe. -/
  | notModelled (mnemonic : String)
  /-- A host access that is not 32 bits wide (20_memory.md R87: "not defined. A model refuses such an access"). Raised by
  `accessOffset`. Safe (notes/assumptions/8.md). -/
  | accessWidth
  /-- A host access at an offset that is not a multiple of 4 (20_memory.md R87). Raised by `accessOffset`. Safe. -/
  | accessMisaligned
  /-- A host access outside the core's register window (20_memory.md R81). Raised by `accessOffset`. Safe. -/
  | outsideWindow
deriving DecidableEq, Repr

/-- The machine after reset with the given open parameters (10_state.md R32, 70_reset_and_hazards.md R380). HEAP's entries are the
model's choice (notes/assumptions/3.md), and so are the host's own fields (notes/assumptions/1.md, 5.md, 10.md, 16.md). -/
def State.resetAt (p : Params) : State where
  params := p
  tie := false
  tieUsed := false
  seqPhase := .collect
  flight := .idle
  errCode := .none
  errCmd := 0
  freq := .fill 0
  totalLen := 0
  nsym := 0
  node := .fill Node.zero
  nnodes := 0
  root := 0
  heap := ⟨.fill 0, 0⟩
  codeLen := .fill 0
  codeVal := .fill 0
  maxLen := 0
  expBits := 0
  acc := 0
  bitcnt := 0
  lastPad := 0
  dataBits := 0
  outBytes := 0
  encCount := 0
  outq := []
  hostq := []
  pace := .full
  hostRd := []
  hostOut := []
  sessionOut := []
  file := []
  draws := 0

/-- The machine right after reset. -/
def State.reset : State := State.resetAt Config.resetParams

end Sys2Proof.Machine
end

