-- ==== Sys2Proof/Machine/Ops.lean ====
section
/-! DEFINITION. The named operations over the state that several commands share: BUSY, taking an error and leaving it, the output FIFO,
and the table accessors. -/

namespace Sys2Proof.Machine

/-- What a step answers. -/
abbrev Answer := Host.Outcome State Fault Refusal

/-- The answer of work that ends in a state or in an internal fault. -/
def settle : Except Fault State → Answer
  | .ok s => .next s
  | .error f => .fault f

/-- BUSY (10_state.md R34): 1 from the acceptance of a command until it has finished. -/
def State.busy (s : State) : Bool :=
  match s.flight with
  | .idle => false
  | .count _ => true
  | .build => true
  | .write _ _ _ => true
  | .flush => true

/-- The number of an error code (60_exceptions.md R340). -/
def ErrCode.toBits : ErrCode → BitVec 4
  | .none => 0
  | .emptyInput => 1
  | .freqOverflow => 2
  | .sequence => 3
  | .illegalCommand => 4
  | .uncodedSymbol => 5
  | .busyViolation => 6

/-- `raise CmdError(code)` for the command word `w`: taking an error, whatever the command (60_exceptions.md R343: "nothing else
changes; the command ends here"). -/
def State.raise (code : ErrCode) (w : Word) (s : State) : State :=
  { s with errCode := code, errCmd := w }

/-- CLEAR's effect: the command in flight is abandoned and every element but CTRL, ID, CAPS and HEAP takes its after-CLEAR value
(45_control.md R303, R304). It is one of the two returns from an error (60_exceptions.md R346). A session ends here, so the host's list of
the bytes it popped in the session is empty again (46_host_serializer.md R320); the open parameters, the host's other fields and the model's
own stay. -/
def State.clear (s : State) : State :=
  { State.resetAt s.params with
    tie := s.tie
    heap := ⟨s.heap.slot, 0⟩
    hostq := s.hostq
    pace := s.pace
    hostRd := s.hostRd
    hostOut := s.hostOut
    file := s.file
    draws := s.draws }

/-- Hardware reset of a machine that is running: CLEAR's effect, and CTRL.TIE = 0 (70_reset_and_hazards.md R380, R382;
notes/assumptions/15.md). It is the other return from an error (60_exceptions.md R346). -/
def State.resetEvent (s : State) : State :=
  { s.clear with tie := false }

/-- OUTQ holds OUT_FIFO_DEPTH bytes (10_state.md R38, R45). -/
def State.fifoFull (s : State) : Bool := decide (s.params.outFifoDepth ≤ s.outq.length)

/-- `Emit(b)` once the FIFO has room (44_bitpacker.md R269); the wait for room is `coreStep`'s. -/
def State.emit (b : Byte) (s : State) : State :=
  { s with outq := s.outq ++ [b], outBytes := s.outBytes + 1 }

/-- The host pops the head of OUTQ into HOSTOUT and into its list of the session's bytes (20_memory.md R88, 30_encoding.md R127,
46_host_serializer.md R320); nothing when OUTQ is empty
(notes/assumptions/10.md). -/
def State.popOut (s : State) : State :=
  match s.outq with
  | [] => s
  | b :: rest => { s with outq := rest, hostOut := s.hostOut ++ [b], sessionOut := s.sessionOut ++ [b] }

/-- FREQ[s]. -/
def State.freqAt (s : State) (b : Byte) : Word := s.freq.read 0 b.toNat

/-- CODE_LEN[s]. -/
def State.codeLenAt (s : State) (b : Byte) : Byte := s.codeLen.read 0 b.toNat

/-- CODE_VAL[s]. -/
def State.codeValAt (s : State) (b : Byte) : Code := s.codeVal.read 0 b.toNat

/-- NODE[i]; there is no NODE[511]. -/
def nodeAt (nodes : Table Node 511) (i : NodeIdx) : Node := nodes.read Node.zero i.toNat

end Sys2Proof.Machine
end

