-- ==== Sys2Proof/Machine/PriorityQueue.lean ====
section
/-! DEFINITION. The PriorityQueue: the min-heap engine inside BUILD (spec 41_heap.md R180 to R186). The operations read the node weights
and TIE_USED, and write HEAP and HSIZE only. -/

namespace Sys2Proof.Machine

/-- HEAP[i]. -/
def Heap.at (h : Heap) (i : Nat) : NodeIdx := h.slot.read 0 i

/-- HEAP[i] <- n. -/
def Heap.put (h : Heap) (i : Nat) (n : NodeIdx) : Heap := { h with slot := h.slot.write i n }

/-- swap HEAP[i], HEAP[j]. -/
def Heap.swap (h : Heap) (i j : Nat) : Heap := (h.put i (h.at j)).put j (h.at i)

/-- `less(a, b)`: the heap order on node indices (41_heap.md R181). -/
def less (tieUsed : Bool) (nodes : Table Node 511) (a b : NodeIdx) : Bool :=
  let wa := (nodeAt nodes a).w
  let wb := (nodeAt nodes b).w
  if tieUsed then decide (wa < wb) || (decide (wa = wb) && decide (a < b)) else decide (wa < wb)

/-- The position `sift_down` swaps with: the left child is tested first, and the right child replaces it only when strictly less
(41_heap.md R182). -/
def Heap.smallest (tieUsed : Bool) (nodes : Table Node 511) (h : Heap) (i : Nat) : Nat :=
  let m := if decide (2 * i + 1 < h.size) && less tieUsed nodes (h.at (2 * i + 1)) (h.at i) then 2 * i + 1 else i
  if decide (2 * i + 2 < h.size) && less tieUsed nodes (h.at (2 * i + 2)) (h.at m) then 2 * i + 2 else m

/-- `sift_down(i)` (41_heap.md R182), in at most `fuel` swaps. A swap at least doubles the position, so HSIZE is fuel enough
(notes/assumptions/14.md). -/
def Heap.siftDown (tieUsed : Bool) (nodes : Table Node 511) : Nat → Nat → Heap → Heap
  | 0, _, h => h
  | fuel + 1, i, h =>
    let m := h.smallest tieUsed nodes i
    if m = i then h else Heap.siftDown tieUsed nodes fuel m (h.swap i m)

/-- `sift_up(i)` (41_heap.md R183), in at most `fuel` swaps. A swap lowers the position, so the position itself is fuel enough
(notes/assumptions/14.md). -/
def Heap.siftUp (tieUsed : Bool) (nodes : Table Node 511) : Nat → Nat → Heap → Heap
  | 0, _, h => h
  | fuel + 1, i, h =>
    if decide (0 < i) && less tieUsed nodes (h.at i) (h.at ((i - 1) / 2)) then
      Heap.siftUp tieUsed nodes fuel ((i - 1) / 2) (h.swap i ((i - 1) / 2))
    else h

/-- `insert(n)` (41_heap.md R184): append and sift up. -/
def Heap.insert (tieUsed : Bool) (nodes : Table Node 511) (n : NodeIdx) (h : Heap) : Except Fault Heap :=
  if h.size < Config.heapCap then
    .ok (Heap.siftUp tieUsed nodes h.size h.size { h.put h.size n with size := h.size + 1 })
  else .error .heapOverflow

/-- `extract_min()` (41_heap.md R185): the root, and the heap without it. -/
def Heap.extractMin (tieUsed : Bool) (nodes : Table Node 511) (h : Heap) : Except Fault (NodeIdx × Heap) :=
  if h.size = 0 then .error .heapUnderflow
  else
    let h' : Heap := { h.put 0 (h.at (h.size - 1)) with size := h.size - 1 }
    .ok (h.at 0, if 0 < h'.size then Heap.siftDown tieUsed nodes h'.size 0 h' else h')

/-- The loop of `build()`: `sift_down` at positions `k-1` down to 0 (41_heap.md R186). -/
def Heap.heapify (tieUsed : Bool) (nodes : Table Node 511) : Nat → Heap → Heap
  | 0, h => h
  | k + 1, h => Heap.heapify tieUsed nodes k (Heap.siftDown tieUsed nodes h.size k h)

/-- `build()` (41_heap.md R186): from the last non-leaf index down to the root. -/
def Heap.build (tieUsed : Bool) (nodes : Table Node 511) (h : Heap) : Heap :=
  Heap.heapify tieUsed nodes (h.size / 2) h

end Sys2Proof.Machine
end

