-- ==== Sys2Proof/Machine/TreeBuilder.lean ====
section
/-! DEFINITION. The HuffmanTreeBuilder: the steps of BUILD up to the root (spec 42_tree.md R212 to R215). -/

namespace Sys2Proof.Machine

/-- What the steps of BUILD work on: the arena, the number of nodes and the heap. -/
structure TreeWork where
  nodes : Table Node 511
  nnodes : Nat
  heap : Heap
deriving DecidableEq, Repr

/-- The leaf of symbol `s` with frequency `f` (42_tree.md R212). -/
def leafNode (s : Nat) (f : Word) : Node := ⟨.leaf, BitVec.ofNat 8 s, f, 0, 0⟩

/-- The leaves of the symbols from `s` on, whose frequencies the list gives, in ascending symbol order (42_tree.md R212). -/
def leavesFrom : Nat → List Word → List Node
  | _, [] => []
  | s, f :: fs => if f = 0 then leavesFrom (s + 1) fs else leafNode s f :: leavesFrom (s + 1) fs

/-- The leaves of a frequency table. -/
def leavesOf (freq : Table Word 256) : List Node := leavesFrom 0 freq.entries

/-- `make_leaves()` and `init_heap()` (42_tree.md R212, R213): the leaves in the arena, HEAP[j] = j, and one heapify. -/
def plantLeaves (tieUsed : Bool) (freq : Table Word 256) (nodes : Table Node 511) (slot : Table NodeIdx 256) : TreeWork :=
  let leaves := leavesOf freq
  let n := leaves.length
  let nodes' := nodes.writeFrom 0 leaves
  ⟨nodes', n, Heap.build tieUsed nodes' ⟨slot.writeFrom 0 ((List.range n).map (BitVec.ofNat 9)), n⟩⟩

/-- The internal node over two children (42_tree.md R214). -/
def internalNode (nodes : Table Node 511) (l r : NodeIdx) : Node :=
  ⟨.internal, 0, (nodeAt nodes l).w + (nodeAt nodes r).w, l, r⟩

/-- One turn of `merge_loop()` (42_tree.md R214); the first node extracted is LEFT, the second RIGHT. -/
def mergeOnce (tieUsed : Bool) (t : TreeWork) : Except Fault TreeWork :=
  match t.heap.extractMin tieUsed t.nodes with
  | .error f => .error f
  | .ok (l, h₁) =>
    match h₁.extractMin tieUsed t.nodes with
    | .error f => .error f
    | .ok (r, h₂) =>
      if 2 ^ 32 ≤ (nodeAt t.nodes l).w.toNat + (nodeAt t.nodes r).w.toNat then .error .weightOverflow
      else if Config.nodeMax ≤ t.nnodes then .error .nodeOverflow
      else
        let nodes' := t.nodes.write t.nnodes (internalNode t.nodes l r)
        match h₂.insert tieUsed nodes' (BitVec.ofNat 9 t.nnodes) with
        | .error f => .error f
        | .ok h₃ => .ok ⟨nodes', t.nnodes + 1, h₃⟩

/-- `merge_loop()` (42_tree.md R214), in at most `fuel` turns. A turn leaves one entry fewer in the heap, so HSIZE is fuel enough
(notes/assumptions/14.md). -/
def mergeLoop (tieUsed : Bool) : Nat → TreeWork → Except Fault TreeWork
  | 0, t => .ok t
  | fuel + 1, t =>
    if t.heap.size ≤ 1 then .ok t
    else
      match mergeOnce tieUsed t with
      | .error f => .error f
      | .ok t' => mergeLoop tieUsed fuel t'

/-- The whole tree and its root: `make_leaves`, `init_heap`, `merge_loop` and `take_root` (42_tree.md R212 to R215). -/
def buildTree (tieUsed : Bool) (freq : Table Word 256) (nodes : Table Node 511) (slot : Table NodeIdx 256) :
    Except Fault (NodeIdx × TreeWork) :=
  let t := plantLeaves tieUsed freq nodes slot
  match mergeLoop tieUsed t.heap.size t with
  | .error f => .error f
  | .ok t' =>
    match t'.heap.extractMin tieUsed t'.nodes with
    | .error f => .error f
    | .ok (root, h) => .ok (root, { t' with heap := h })

end Sys2Proof.Machine
end

