-- ==== Sys2Proof/Machine/CodeTableGenerator.lean ====
section
/-! DEFINITION. The CodeTableGenerator: the walk that gives every symbol its code (spec 43_codegen.md R240 to R243). -/

namespace Sys2Proof.Machine

/-- CODE_LEN and CODE_VAL while they are written. -/
structure CodeTable where
  len : Table Byte 256
  val : Table Code 256
deriving DecidableEq, Repr

/-- CODE_LEN[s] <- d; CODE_VAL[s] <- v. -/
def CodeTable.record (c : CodeTable) (s : Byte) (d : Nat) (v : Code) : CodeTable :=
  ⟨c.len.write s.toNat (BitVec.ofNat 8 d), c.val.write s.toNat v⟩

/-- The loop of `gen_codes()` (43_codegen.md R240) on the stack of (node, code so far, depth), in at most `fuel` turns. The walk visits
every node once, so the arena's size is fuel enough (notes/assumptions/14.md). -/
def walkCodes (nodes : Table Node 511) : Nat → List (NodeIdx × Code × Nat) → CodeTable → Except Fault CodeTable
  | _, [], c => .ok c
  | 0, _ :: _, _ => .error .walkOverrun
  | fuel + 1, (i, v, d) :: stack, c =>
    match (nodeAt nodes i).kind with
    | .leaf => walkCodes nodes fuel stack (c.record (nodeAt nodes i).sym d v)
    | .internal =>
      if Config.maxCodeLen ≤ d then .error .codeLenOverflow
      else
        walkCodes nodes fuel
          (((nodeAt nodes i).left, 2 * v + 0, d + 1) :: ((nodeAt nodes i).right, 2 * v + 1, d + 1) :: stack) c

/-- `gen_codes()` before `finish_codes()`: the placeholder code "0" for one symbol (43_codegen.md R242), the walk from the root for two or
more (R240). `n` is the number of leaves (notes/assumptions/13.md). -/
def genCodes (nodes : Table Node 511) (root : NodeIdx) (n : Nat) (c : CodeTable) : Except Fault CodeTable :=
  if n = 1 then .ok (c.record (nodeAt nodes 0).sym 1 0)
  else walkCodes nodes Config.nodeMax [(root, 0, 0)] c

/-- MAX_LEN: the largest code length (43_codegen.md R243). -/
def maxLenOf (lens : List Byte) : Byte := lens.foldl (fun m l => if m < l then l else m) 0

/-- EXP_BITS: the sum of frequency times code length, in 64 bits (43_codegen.md R243). -/
def expBitsOf (freqs : List Word) (lens : List Byte) : Word64 :=
  (List.zipWith (fun f l => f.setWidth 64 * l.setWidth 64) freqs lens).foldl (· + ·) 0

/-- BUILD's effect once its checks have passed and the tie mode is sampled (42_tree.md R210). -/
def State.buildCodes (s : State) : Except Fault State :=
  match buildTree s.tieUsed s.freq s.node s.heap.slot with
  | .error f => .error f
  | .ok (root, t) =>
    match genCodes t.nodes root (leavesOf s.freq).length ⟨s.codeLen, s.codeVal⟩ with
    | .error f => .error f
    | .ok c => .ok { s with
        node := t.nodes
        nnodes := BitVec.ofNat 10 t.nnodes
        root := root
        heap := t.heap
        codeLen := c.len
        codeVal := c.val
        maxLen := maxLenOf c.len.entries
        expBits := expBitsOf s.freq.entries c.len.entries
        seqPhase := .ready }

end Sys2Proof.Machine
end

