-- ==== Sys2Proof/Machine/FrequencyCounter.lean ====
section
/-! DEFINITION. The FrequencyCounter's work (spec 40_frequency.md R160). -/

namespace Sys2Proof.Machine

/-- COUNT's effect once its checks have passed (40_frequency.md R160). -/
def State.countByte (b : Byte) (s : State) : State :=
  { s with
    nsym := if s.freqAt b = 0 then s.nsym + 1 else s.nsym
    freq := s.freq.write b.toNat (s.freqAt b + 1)
    totalLen := s.totalLen + 1 }

end Sys2Proof.Machine
end

