-- ==== Sys2Proof/Machine/Operands.lean ====
section
/-! DEFINITION. The operand forms of the commands as the packer takes them (spec 30_encoding.md R123, 00_scope.md R11). BYTE is used as it
stands; the decoder has assembled all three operands. -/

namespace Sys2Proof.Machine

/-- The `n` low bits of a value, `v[n-1]` first and `v[0]` last (44_bitpacker.md R261). -/
def bitsOf {m : Nat} (v : BitVec m) : Nat → List Bool
  | 0 => []
  | n + 1 => v.getLsbD n :: bitsOf v n

/-- The bit string of ENCODE's symbol: the low CODE_LEN[s] bits of CODE_VAL[s], first bit first (44_bitpacker.md R263). -/
def State.codeBits (s : State) (b : Byte) : List Bool := bitsOf (s.codeValAt b) (s.codeLenAt b).toNat

/-- The bit string of PACK_RAW: `RAW[NBITS-1:0]`, its most significant bit first; `RAW[15:NBITS]` are ignored (30_encoding.md R123). -/
def rawBits (nbits : BitVec 5) (raw : BitVec 16) : List Bool := bitsOf raw nbits.toNat

end Sys2Proof.Machine
end

