-- ==== Sys2Proof/Machine/Packing.lean ====
section
/-! DEFINITION. The BitPacker's primitives (spec 44_bitpacker.md R260 to R262), each for an output FIFO that has room. -/

namespace Sys2Proof.Machine

/-- ACC with one bit more: `((ACC << 1) | b) mod 2^8` (44_bitpacker.md R260). -/
def shiftIn (acc : Byte) (b : Bool) : Byte := (acc <<< 1) ||| (BitVec.ofBool b).setWidth 8

/-- `write_bit(b)` (44_bitpacker.md R260). -/
def State.writeBit (b : Bool) (s : State) : State :=
  if s.bitcnt = 7 then { s.emit (shiftIn s.acc b) with acc := 0, bitcnt := 0 }
  else { s with acc := shiftIn s.acc b, bitcnt := s.bitcnt + 1 }

/-- `write_bit` for every bit of a list, first bit first: the loop of `write(v, n)` (44_bitpacker.md R261). -/
def State.writeBits (bits : List Bool) (s : State) : State := bits.foldl (fun t b => t.writeBit b) s

/-- What ends a `write(v, n)`: DATA_BITS, and for ENCODE also ENC_COUNT (44_bitpacker.md R261, R263, R265). -/
def State.finishWrite (total : Nat) (enc : Bool) (s : State) : State :=
  { s with
    dataBits := s.dataBits + BitVec.ofNat 64 total
    encCount := if enc then s.encCount + 1 else s.encCount }

/-- `flush()` (44_bitpacker.md R262). -/
def State.flushHeld (s : State) : State :=
  if s.bitcnt = 0 then { s with lastPad := 0 }
  else
    { s.emit (s.acc <<< (8 - s.bitcnt.toNat)) with
      lastPad := BitVec.ofNat 3 (8 - s.bitcnt.toNat)
      acc := 0
      bitcnt := 0 }

end Sys2Proof.Machine
end

