-- ==== Sys2Proof/Machine/Progress.lean ====
section
/-! DEFINITION. How the core carries a command in flight forward (spec 00_scope.md R7, 10_state.md R34, R48, 44_bitpacker.md R269) and what
every command word is checked for before it runs (60_exceptions.md R341). -/

namespace Sys2Proof.Machine

/-- One step of the command in flight. A bit that would complete a byte, and a FLUSH that would emit one, wait while the FIFO is full
(44_bitpacker.md R269). Nothing happens when no command is in flight (60_exceptions.md R356). -/
def coreStep (s : State) : Except Fault State :=
  match s.flight with
  | .idle => .ok s
  | .count b => .ok { s.countByte b with flight := .idle }
  | .build =>
    match s.buildCodes with
    | .error f => .error f
    | .ok t => .ok { t with flight := .idle }
  | .write [] total enc => .ok { s.finishWrite total enc with flight := .idle }
  | .write (b :: bits) total enc =>
    if decide (s.bitcnt = 7) && s.fifoFull then .ok s
    else .ok { s.writeBit b with flight := .write bits total enc }
  | .flush =>
    if decide (s.bitcnt ≠ 0) && s.fifoFull then .ok s
    else .ok { s.flushHeld with flight := .idle }

/-- At most `k` steps of the command in flight. -/
def coreSteps : Nat → State → Except Fault State
  | 0, s => .ok s
  | k + 1, s =>
    match coreStep s with
    | .error f => .error f
    | .ok t => coreSteps k t

/-- How many steps the command in flight takes when it does not wait. -/
def Flight.length : Flight → Nat
  | .idle => 0
  | .count _ => 1
  | .build => 1
  | .write bits _ _ => bits.length + 1
  | .flush => 1

/-- The core moves as far as the pace of the host's last access says (notes/assumptions/5.md). -/
def advance (s : State) : Except Fault State :=
  match s.pace with
  | .full => coreSteps s.flight.length s
  | .steps k => coreSteps k s

/-- An accepted command goes in flight, and the core starts on it. -/
def launch (f : Flight) (s : State) : Answer := settle (advance { s with flight := f })

/-- `legal(d, p)` of 60_exceptions.md R341: where 45_control.md R301 names a rule rather than SEQUENCE. -/
def legalIn : Instr → Phase → Bool
  | .nop, _ => true
  | .clear, _ => true
  | .count _, p => decide (p = .collect)
  | .build, p => decide (p = .collect)
  | .encode _, p => decide (p = .ready)
  | .flush, p => decide (p = .ready)
  | .packRaw _ _, p => decide (p = .ready)

/-- The first checks of `Command(w)` on a word that is not the exact CLEAR word (60_exceptions.md R341): ignored while ERR_CODE != 0
(R344), BUSY_VIOLATION while BUSY = 1 (R345). In both cases the command in flight goes on. -/
def receive (w : Word) (k : State → Answer) (s : State) : Answer :=
  if s.errCode ≠ .none then settle (advance s)
  else if s.busy then settle (advance (s.raise .busyViolation w))
  else k s

/-- A word for which decode answers ILLEGAL (30_encoding.md R126, 60_exceptions.md R341). -/
def rejectWord (w : Word) (s : State) : Answer :=
  receive w (fun t => .next (t.raise .illegalCommand w)) s

/-- All the checks of 60_exceptions.md R341 for a command but CLEAR, in that order, and then its own rule. A term that no word encodes is
ILLEGAL here too (44_bitpacker.md R265, notes/assumptions/12.md). -/
def accept (i : Instr) (rule : State → Answer) (s : State) : Answer :=
  receive (encode i) (fun t =>
    if !i.wellFormed then .next (t.raise .illegalCommand (encode i))
    else if !legalIn i t.seqPhase then .next (t.raise .sequence (encode i))
    else rule t) s

end Sys2Proof.Machine
end

