-- ==== Sys2Proof/Machine/BitPacker.lean ====
section
/-! DEFINITION. The commands ENCODE, FLUSH and PACK_RAW (spec 44_bitpacker.md). -/

namespace Sys2Proof.Machine

/-- ENCODE: the code of one symbol; UNCODED_SYMBOL when it has none (44_bitpacker.md R263). -/
def execEncode (b : Byte) (s : State) : Answer :=
  accept (.encode b) (fun t =>
    if t.codeLenAt b = 0 then .next (t.raise .uncodedSymbol (encode (.encode b)))
    else launch (.write (t.codeBits b) (t.codeLenAt b).toNat true) t) s

/-- FLUSH: pad the held bits and emit them (44_bitpacker.md R264). -/
def execFlush (s : State) : Answer := accept .flush (fun t => launch .flush t) s

/-- PACK_RAW: 1 to 16 literal bits (44_bitpacker.md R265). -/
def execPackRaw (nbits : BitVec 5) (raw : BitVec 16) (s : State) : Answer :=
  accept (.packRaw nbits raw) (fun t => launch (.write (rawBits nbits raw) nbits.toNat false) t) s

end Sys2Proof.Machine
end

