-- ==== Sys2Proof/Machine/Control.lean ====
section
/-! DEFINITION. The control commands NOP and CLEAR (spec 45_control.md). -/

namespace Sys2Proof.Machine

/-- NOP: nothing (45_control.md R300). -/
def execNop (s : State) : Answer := accept .nop (fun t => .next t) s

/-- CLEAR: ends the session in every phase, in ERROR and while BUSY = 1, and never errs (45_control.md R303, R304). -/
def execClear (s : State) : Answer := .next s.clear

end Sys2Proof.Machine
end

