-- ==== Sys2Proof/Machine/Frequency.lean ====
section
/-! DEFINITION. The command COUNT (spec 40_frequency.md R160). -/

namespace Sys2Proof.Machine

/-- COUNT: one input byte; FREQ_OVERFLOW when 2^32 - 1 bytes have been counted (40_frequency.md R160). -/
def execCount (b : Byte) (s : State) : Answer :=
  accept (.count b) (fun t =>
    if t.totalLen = Config.totalMax then .next (t.raise .freqOverflow (encode (.count b)))
    else launch (.count b) t) s

end Sys2Proof.Machine
end

