-- ==== Sys2Proof/Machine/Tree.lean ====
section
/-! DEFINITION. The command BUILD (spec 42_tree.md R210). -/

namespace Sys2Proof.Machine

/-- BUILD: EMPTY_INPUT when no symbol was counted; else the tie mode is sampled as the command starts (42_tree.md R211), and the tree and
the code table are built (42_tree.md R210). -/
def execBuild (s : State) : Answer :=
  accept .build (fun t =>
    if t.nsym = 0 then .next (t.raise .emptyInput (encode .build))
    else launch .build { t with tieUsed := t.tie }) s

end Sys2Proof.Machine
end

