-- ==== Sys2Proof/Machine/Dispatch.lean ====
section
/-! DEFINITION. One arm per command: the meaning of a command word that has been decoded. -/

namespace Sys2Proof.Machine

def exec (i : Instr) (s : State) : Host.Outcome State Fault Refusal :=
  match i with
  | .nop => Sys2Proof.Machine.execNop s
  | .clear => Sys2Proof.Machine.execClear s
  | .count b => Sys2Proof.Machine.execCount b s
  | .build => Sys2Proof.Machine.execBuild s
  | .encode b => Sys2Proof.Machine.execEncode b s
  | .flush => Sys2Proof.Machine.execFlush s
  | .packRaw n r => Sys2Proof.Machine.execPackRaw n r s

end Sys2Proof.Machine
end

