-- ==== Sys2Proof/Machine/Flags.lean ====
section
/-! DEFINITION. The status flags: STATUS and its fields (spec 10_state.md R33, R38, R47). HUFF-CORE has no condition codes; only the host
reads these. -/

namespace Sys2Proof.Machine

/-- STATUS.PHASE: 3 in ERROR, else 0 for COLLECT and 1 for READY (10_state.md R33). -/
def State.phaseBits (s : State) : BitVec 2 :=
  if s.errCode ≠ .none then 3
  else match s.seqPhase with
    | .collect => 0
    | .ready => 1

/-- STATUS.ERR (10_state.md R38). -/
def State.errFlag (s : State) : Bool := decide (s.errCode ≠ .none)

/-- STATUS.OUT_VALID (10_state.md R38). -/
def State.outValid (s : State) : Bool := !s.outq.isEmpty

/-- STATUS.OUT_FULL (10_state.md R38). -/
def State.outFull (s : State) : Bool := decide (s.outq.length = s.params.outFifoDepth)

/-- The STATUS register (10_state.md R38): bit 5 OUT_FULL, 4 OUT_VALID, 3 ERR, 2:1 PHASE, 0 BUSY. -/
def State.status (s : State) : Word :=
  0#26 ++ BitVec.ofBool s.outFull ++ BitVec.ofBool s.outValid ++ BitVec.ofBool s.errFlag ++ s.phaseBits ++ BitVec.ofBool s.busy

end Sys2Proof.Machine
end

