-- ==== Sys2Proof/Machine/RegisterMap.lean ====
section
/-! DEFINITION. The register window: which register an offset selects and what it reads (spec 20_memory.md R82, R83, R84, R90). -/

namespace Sys2Proof.Machine

/-- The registers of 20_memory.md R82 and the words of its table windows (R83). -/
inductive Reg where
  | id
  | caps
  | ctrl
  | cmd
  | status
  | errCode
  | errCmd
  | nsym
  | totalLen
  | nnodes
  | root
  | maxLen
  | expBitsLo
  | expBitsHi
  | dataBitsLo
  | dataBitsHi
  | outBytesLo
  | outBytesHi
  | encCountLo
  | encCountHi
  | acc
  | bitcnt
  | lastPad
  | tieUsed
  | outData
  | outLevel
  /-- FREQ[s]. -/
  | freq (s : Nat)
  /-- CODE_LEN[s]. -/
  | codeLen (s : Nat)
  /-- Word `k` of CODE_VAL[s]. -/
  | codeBits (s k : Nat)
  /-- Word `f` of NODE[i]. -/
  | node (i f : Nat)
  /-- A reserved offset. -/
  | reserved
deriving DecidableEq, Repr

/-- The single registers of the map (20_memory.md R82). -/
def registerTable : List (Nat × Reg) :=
  [ (0x0000, .id), (0x0004, .caps), (0x0008, .ctrl), (0x000C, .cmd), (0x0010, .status), (0x0014, .errCode), (0x0018, .errCmd),
    (0x001C, .nsym), (0x0020, .totalLen), (0x0024, .nnodes), (0x0028, .root), (0x002C, .maxLen), (0x0030, .expBitsLo),
    (0x0034, .expBitsHi), (0x0038, .dataBitsLo), (0x003C, .dataBitsHi), (0x0040, .outBytesLo), (0x0044, .outBytesHi),
    (0x0048, .encCountLo), (0x004C, .encCountHi), (0x0050, .acc), (0x0054, .bitcnt), (0x0058, .lastPad), (0x005C, .tieUsed),
    (0x0060, .outData), (0x0064, .outLevel) ]

/-- The register at an offset that is a multiple of 4 below 0x8000 (20_memory.md R82, R83). -/
def regAt (off : Nat) : Reg :=
  if off < 0x0400 then (registerTable.lookup off).getD .reserved
  else if off < 0x0800 then .freq ((off - 0x0400) / 4)
  else if off < 0x0C00 then .codeLen ((off - 0x0800) / 4)
  else if off < 0x1000 then .reserved
  else if off < 0x3000 then .codeBits ((off - 0x1000) / 32) ((off - 0x1000) % 32 / 4)
  else if off < 0x4000 then .reserved
  else if off < 0x6000 then .node ((off - 0x4000) / 16) ((off - 0x4000) % 16 / 4)
  else .reserved

/-- The registers that read exactly while BUSY = 1 (20_memory.md R85, R90); OUT_DATA follows its own rule. -/
def Reg.exactWhileBusy : Reg → Bool
  | .id | .caps | .ctrl | .cmd | .status | .errCode | .errCmd | .outLevel | .outData => true
  | .nsym | .totalLen | .nnodes | .root | .maxLen | .expBitsLo | .expBitsHi | .dataBitsLo | .dataBitsHi | .outBytesLo | .outBytesHi
  | .encCountLo | .encCountHi | .acc | .bitcnt | .lastPad | .tieUsed | .freq _ | .codeLen _ | .codeBits _ _ | .node _ _
  | .reserved => false

/-- Word `f` of a node (20_memory.md R83). -/
def Node.word (n : Node) : Nat → Word
  | 0 => n.w
  | 1 =>
    let kind : BitVec 1 := match n.kind with
      | .leaf => 0
      | .internal => 1
    0#15 ++ kind ++ 0#8 ++ n.sym
  | 2 => n.left.setWidth 32
  | 3 => n.right.setWidth 32
  | _ => 0

/-- The low and the high word of a 64-bit counter (20_memory.md R89). -/
def loWord (v : Word64) : Word := v.extractLsb' 0 32

/-- The high word of a 64-bit counter (20_memory.md R89). -/
def hiWord (v : Word64) : Word := v.extractLsb' 32 32

/-- The value a register reads when it reads exactly (20_memory.md R82, R83, R84, R88). -/
def State.regValue (s : State) : Reg → Word
  | .id => Config.idValue
  | .caps => s.params.caps
  | .ctrl => (BitVec.ofBool s.tie).setWidth 32
  | .cmd => 0
  | .status => s.status
  | .errCode => s.errCode.toBits.setWidth 32
  | .errCmd => s.errCmd
  | .nsym => s.nsym.setWidth 32
  | .totalLen => s.totalLen
  | .nnodes => s.nnodes.setWidth 32
  | .root => s.root.setWidth 32
  | .maxLen => s.maxLen.setWidth 32
  | .expBitsLo => loWord s.expBits
  | .expBitsHi => hiWord s.expBits
  | .dataBitsLo => loWord s.dataBits
  | .dataBitsHi => hiWord s.dataBits
  | .outBytesLo => loWord s.outBytes
  | .outBytesHi => hiWord s.outBytes
  | .encCountLo => loWord s.encCount
  | .encCountHi => hiWord s.encCount
  | .acc => s.acc.setWidth 32
  | .bitcnt => s.bitcnt.setWidth 32
  | .lastPad => s.lastPad.setWidth 32
  | .tieUsed => (BitVec.ofBool s.tieUsed).setWidth 32
  | .outData =>
    match s.outq with
    | [] => 0
    | b :: _ => 0#23 ++ 1#1 ++ b
  | .outLevel => BitVec.ofNat 32 (s.outq.length % 2 ^ 16)
  | .freq i => s.freq.read 0 i
  | .codeLen i => (s.codeLen.read 0 i).setWidth 32
  | .codeBits i k => (s.codeVal.read 0 i).extractLsb' (32 * k) 32
  | .node i f => if s.nnodes.toNat ≤ i ∨ i = 511 then 0 else (s.node.read Node.zero i).word f
  | .reserved => 0

end Sys2Proof.Machine
end

