-- ==== Sys2Proof/Machine/Serializer.lean ====
section
/-! DEFINITION. The host's file serializer (spec 46_host_serializer.md R320 to R323): host software over what the host has read and popped. The
core does not execute these rules; the host's own steps call them (notes/assumptions/16.md). -/

namespace Sys2Proof.Machine

/-- A frequency record: the symbol, and its frequency big-endian (46_host_serializer.md R322). -/
def record (s : Nat) (f : Word) : List Byte :=
  [BitVec.ofNat 8 s, f.extractLsb' 24 8, f.extractLsb' 16 8, f.extractLsb' 8 8, f.extractLsb' 0 8]

/-- The records of the symbols from `s` on with a nonzero frequency, in ascending symbol order (46_host_serializer.md R322). -/
def recordsFrom : Nat → List Word → List Byte
  | _, [] => []
  | s, f :: fs => if f = 0 then recordsFrom (s + 1) fs else record s f ++ recordsFrom (s + 1) fs

/-- The header NSYM mod 256 and the records (46_host_serializer.md R321), from the values read of NSYM and of FREQ[0], FREQ[1], ...; nothing
where nothing was read. -/
def headerBytes : List Word → List Byte
  | [] => []
  | nsym :: freqs => [nsym.setWidth 8] ++ recordsFrom 0 freqs

/-- How many registers the header is written from: NSYM and FREQ[0..255] (46_host_serializer.md R320). -/
def headerReads : Nat := 1 + Config.nsymMax

/-- FILE (46_host_serializer.md R321): the header, the records, and the packed bytes the host popped in the session. -/
def fileOf (nsym : BitVec 9) (freq : Table Word 256) (packed : List Byte) : List Byte :=
  headerBytes (nsym.setWidth 32 :: freq.entries) ++ packed

/-- The last values a host read: as many as the header is written from. -/
def lastReads (values : List Word) : List Word := (values.reverse.take headerReads).reverse

/-- Step 3 of 46_host_serializer.md R323: FILE starts with the header and the records, from the registers the host read last. That they are NSYM
and FREQ[0..255], read with BUSY = 0 after BUILD (R320), is the host script's duty (`fileStmts`, notes/assumptions/16.md). -/
def State.writeHeader (s : State) : State :=
  { s with file := headerBytes (lastReads s.hostRd) }

/-- The packed bytes of FILE (46_host_serializer.md R321): those the host popped in the session (R320). -/
def State.writePacked (s : State) : State := { s with file := s.file ++ s.sessionOut }

end Sys2Proof.Machine
end

