-- ==== Sys2Proof/Machine/HostAccess.lean ====
section
/-! DEFINITION. What a host access does (spec 20_memory.md R81, R84 to R88, 30_encoding.md R127, 60_exceptions.md R341,
46_host_serializer.md R323). -/

namespace Sys2Proof.Machine

/-- The window offset an access selects: the address must lie in the window (20_memory.md R81), and the access must be 32 bits wide at a
multiple of 4 (R87). -/
def accessOffset (p : Params) (addr width : Nat) : Except Refusal Nat :=
  if addr < p.huffBase ∨ p.huffBase + Config.window ≤ addr then .error .outsideWindow
  else if width ≠ 4 then .error .accessWidth
  else if (addr - p.huffBase) % 4 ≠ 0 then .error .accessMisaligned
  else .ok (addr - p.huffBase)

/-- `MemRead` of a register (20_memory.md R85, R88, R90): the state after it and the value it returns. -/
def hostRead (r : Reg) (s : State) : State × Word :=
  if r = .outData then (s.popOut, s.regValue .outData)
  else if s.busy && !r.exactWhileBusy then ({ s with draws := s.draws + 1 }, Config.busyRead s.draws)
  else (s, s.regValue r)

/-- `Command(w)` (60_exceptions.md R341). -/
def command (w : Word) (s : State) : Answer :=
  match decode w with
  | .ok i => exec i s
  | .error _ => rejectWord w s

/-- `MemWrite` of a register (20_memory.md R84, R86): CTRL and CMD alone take a write. -/
def hostWrite (r : Reg) (v : Word) (s : State) : Answer :=
  if r = .ctrl then settle (advance { s with tie := v.getLsbD 0 })
  else if r = .cmd then command v s
  else settle (advance s)

/-- One turn of WAIT (30_encoding.md R127): done when STATUS.BUSY reads 0; else pop a byte if OUT_VALID reads 1, and poll again
(notes/assumptions/11.md). -/
def hostWait (a : HostAccess) (s : State) : Answer :=
  if s.busy then settle (advance { s.popOut with hostq := a :: s.hostq }) else .next s

/-- One turn of DRAIN (30_encoding.md R127): done when OUT_DATA reads VALID = 0; else pop a byte and go on. -/
def hostDrain (a : HostAccess) (s : State) : Answer :=
  match s.outq with
  | [] => settle (advance s)
  | _ :: _ => settle (advance { s.popOut with hostq := a :: s.hostq })

/-- What the access at the head of the host's list does; the state has it taken off the list already. -/
def hostStep (a : HostAccess) (s : State) : Answer :=
  match a.op with
  | .read addr width =>
    match accessOffset s.params addr width with
    | .error r => .refused r
    | .ok off =>
      let (t, v) := hostRead (regAt off) s
      settle (advance { t with hostRd := t.hostRd ++ [v] })
  | .write addr width v =>
    match accessOffset s.params addr width with
    | .error r => .refused r
    | .ok off => hostWrite (regAt off) v s
  | .wait => hostWait a s
  | .drain => hostDrain a s
  | .reset => .next s.resetEvent
  | .writeHeader => settle (advance s.writeHeader)
  | .writePacked => settle (advance s.writePacked)

/-- The access that writes a command word to CMD and lets the core finish (20_memory.md R86). -/
def commandAccess (p : Params) (w : Word) : HostAccess := ⟨.write (p.huffBase + 0x000C) 4 w, .full⟩

end Sys2Proof.Machine
end

