-- ==== Sys2Proof/Machine/Step.lean ====
section
/-! DEFINITION. One step of the machine (spec 00_scope.md R6, R7): the host's next access, after which the core moves as far as the
access's pace says; with no access pending the core moves alone. -/

namespace Sys2Proof.Machine

/-- One step: the access at the head of the host's list, or, with an empty list, one step of the command in flight
(notes/assumptions/1.md, 5.md). -/
def step (s : State) : Host.Outcome State Fault Refusal :=
  match s.hostq with
  | [] => settle (coreStep s)
  | a :: rest => hostStep a { s with hostq := rest, pace := a.pace }

/-- The state in which the host's next access writes the command word `w` to CMD (notes/assumptions/1.md). -/
def State.withFetchWord (s : State) (nbits w : Nat) : State :=
  { s with hostq := commandAccess s.params (BitVec.ofNat 32 (w % 2 ^ nbits)) :: s.hostq }

end Sys2Proof.Machine
end

