-- ==== Sys2Proof/Machine/Script.lean ====
section
/-! DEFINITION. Host scripts: the assembler's statements and pseudo-instructions as lists of host accesses (spec 30_encoding.md R127, R128), and
the orchestration of a whole file (46_host_serializer.md R323). -/

namespace Sys2Proof.Machine

/-- A statement of a host script (30_encoding.md R127), or a step of the host's serializer (46_host_serializer.md R323). -/
inductive Stmt where
  /-- A command statement; the assembler writes the operands into their fields unchanged. -/
  | cmd (i : Instr)
  /-- `WR CTRL, v`. -/
  | wrCtrl (v : Word)
  /-- `WAIT`. -/
  | wait
  /-- `RD` of the register at a window offset. -/
  | rd (off : Nat)
  /-- `DRAIN`. -/
  | drain
  /-- The serializer writes the header and the records (46_host_serializer.md R323, step 3). -/
  | writeHeader
  /-- The serializer appends the packed bytes (46_host_serializer.md R321). -/
  | writePacked
deriving DecidableEq, Repr

/-- What the host does for a statement (30_encoding.md R127). -/
def Stmt.op (p : Params) : Stmt → HostOp
  | .cmd i => .write (p.huffBase + 0x000C) 4 (encode i)
  | .wrCtrl v => .write (p.huffBase + 0x0008) 4 v
  | .wait => .wait
  | .rd off => .read (p.huffBase + off) 4
  | .drain => .drain
  | .writeHeader => .writeHeader
  | .writePacked => .writePacked

/-- The accesses of a script. DESIGN CHOICE (notes/assumptions/18.md): 30_encoding.md R127 does not say how far the core moves between two
statements, and 70_reset_and_hazards.md R397 leaves BUSY's duration open, so each statement, be it a command, WR, WAIT, RD or DRAIN, takes the
next pace of a list the caller gives, and pace `full` where the list has ended. -/
def scriptAccesses (p : Params) : List Stmt → List Pace → List HostAccess
  | [], _ => []
  | st :: script, [] => ⟨st.op p, .full⟩ :: scriptAccesses p script []
  | st :: script, c :: paces => ⟨st.op p, c⟩ :: scriptAccesses p script paces

/-- A machine whose host starts a script, before what it already has pending, at the given paces: HOSTOUT "is empty when the script starts"
(30_encoding.md R127). -/
def State.withScript (s : State) (script : List Stmt) (paces : List Pace) : State :=
  { s with hostq := scriptAccesses s.params script paces ++ s.hostq, hostOut := [] }

/-- `COUNTS b0, b1, ...` (30_encoding.md R128). -/
def countsStmts (bs : List Byte) : List Stmt := bs.flatMap fun b => [.cmd (.count b), .wait]

/-- `ENCODES b0, b1, ...` (30_encoding.md R128). -/
def encodesStmts (bs : List Byte) : List Stmt := bs.flatMap fun b => [.cmd (.encode b), .wait]

/-- The chunks of PACK after the first: `k` chunks of 16 bits, the most significant first (30_encoding.md R128). -/
def packChunks (v : Nat) : Nat → List Stmt
  | 0 => []
  | k + 1 => [.cmd (.packRaw 16 (BitVec.ofNat 16 (v >>> (16 * k)))), .wait] ++ packChunks v k

/-- `PACK n, v` for 1 <= n <= 255 (30_encoding.md R128): the first chunk has `n - 16 * (⌈n/16⌉ - 1)` bits. -/
def packStmts (n v : Nat) : List Stmt :=
  let k := (n + 15) / 16 - 1
  let first := n - 16 * k
  [.cmd (.packRaw (BitVec.ofNat 5 first) (BitVec.ofNat 16 (v >>> (16 * k) % 2 ^ first))), .wait] ++ packChunks v k

/-- Steps 1 and 2 of 46_host_serializer.md R323: CLEAR, one COUNT per input byte, BUILD. -/
def collectStmts (bs : List Byte) : List Stmt := [.cmd .clear, .wait] ++ countsStmts bs ++ [.cmd .build, .wait]

/-- Steps 4 and 5 of 46_host_serializer.md R323: one ENCODE per input byte, in input order, with WAIT after each; FLUSH, WAIT, DRAIN. -/
def streamStmts (bs : List Byte) : List Stmt := encodesStmts bs ++ [.cmd .flush, .wait, .drain]

/-- `RUN bs` (30_encoding.md R128): steps 1, 2, 4 and 5 of 46_host_serializer.md R323. -/
def runStmts (bs : List Byte) : List Stmt := collectStmts bs ++ streamStmts bs

/-- The reads of NSYM and FREQ[0..255] that the header is written from (46_host_serializer.md R320). -/
def tableReads : List Stmt := .rd 0x001C :: (List.range 256).map fun s => .rd (0x0400 + 4 * s)

/-- The orchestration of 46_host_serializer.md R323, all five steps in its order: step 3 stands between BUILD and the ENCODE pass, its reads
after a WAIT and so with BUSY = 0; the packed bytes are appended after the final FLUSH and DRAIN (R320). DESIGN CHOICE
(notes/assumptions/19.md): the spec leaves open what the host does with FILE once the core has erred (R327, 93 I3, 60_exceptions.md R347), and this
script goes on with every statement, so that after a step that erred FILE is what the reads and the pops gave: [0x00] for the empty input, which
is no file of R321. -/
def fileStmts (bs : List Byte) : List Stmt :=
  collectStmts bs ++ (tableReads ++ [.writeHeader]) ++ streamStmts bs ++ [.writePacked]

end Sys2Proof.Machine
end

