-- ==== Sys2Proof/Safety.lean ====
section
/-! DEFINITION. The terms claims are stated in: what a good state is, what a session has packed, and the rule each accepted word meets. -/

namespace Sys2Proof.Machine

/-- A core that takes a command in phase `p`: no error, BUSY = 0. -/
abbrev State.Accepting (p : Phase) (s : State) : Prop := s.errCode = .none ∧ s.flight = .idle ∧ s.seqPhase = p

/-- N: the number of distinct symbols, those with nonzero frequency (00_scope.md, glossary). -/
def State.distinct (s : State) : Nat := s.freq.entries.countP (fun f => decide (f ≠ 0))

/-- 10_state.md R39: TOTAL_LEN is the sum of FREQ, NSYM the number of nonzero entries. -/
abbrev State.FreqInv (s : State) : Prop :=
  s.totalLen.toNat = (s.freq.entries.map BitVec.toNat).sum ∧ s.nsym.toNat = s.distinct

/-- The command in flight is one the phase admits, and its own checks have passed (60_exceptions.md R341). -/
def State.flightFits (s : State) : Bool :=
  match s.flight with
  | .idle => true
  | .count _ => decide (s.seqPhase = .collect ∧ s.totalLen ≠ Config.totalMax)
  | .build => decide (s.seqPhase = .collect ∧ s.nsym ≠ 0)
  | .write _ _ _ => decide (s.seqPhase = .ready)
  | .flush => decide (s.seqPhase = .ready)

/-- Before BUILD the tree, the code table and the packer are empty (10_state.md R40, R42, R43, R44, R45). -/
abbrev State.CollectInv (s : State) : Prop :=
  s.seqPhase = .collect →
    s.node = .fill Node.zero ∧ s.nnodes = 0 ∧ s.root = 0 ∧ s.codeLen = .fill 0 ∧ s.codeVal = .fill 0 ∧ s.maxLen = 0 ∧
    s.expBits = 0 ∧ s.acc = 0 ∧ s.bitcnt = 0 ∧ s.lastPad = 0 ∧ s.dataBits = 0 ∧ s.outBytes = 0 ∧ s.encCount = 0 ∧ s.outq = []

/-- What every state of the core keeps, whatever BUILD has left in the tables: the parameters are in range (00_scope.md R9), the counters agree
(10_state.md R39), a command in flight fits the phase, ACC < 2^BITCNT (R43), OUTQ holds at most OUT_FIFO_DEPTH bytes (R45), the heap is empty
outside BUILD (R41), nothing is built in COLLECT, READY implies NSYM >= 1 (60_exceptions.md R342), and ERR_CMD is 0 without an error
(10_state.md R35). -/
abbrev State.CoreInv (s : State) : Prop :=
  s.params.wf ∧ s.FreqInv ∧ s.flightFits = true ∧ s.acc.toNat < 2 ^ s.bitcnt.toNat ∧ s.outq.length ≤ s.params.outFifoDepth ∧
  s.heap.size = 0 ∧ s.CollectInv ∧ (s.seqPhase = .ready → s.nsym ≠ 0) ∧ (s.errCode = .none → s.errCmd = 0)

/-- NODE[i], by its number. -/
def State.nodeNo (s : State) (i : Nat) : Node := s.node.read Node.zero i

/-- A state in which BUILD is accepted and runs to its end before the host's next access (notes/assumptions/5.md). -/
abbrev State.Buildable (s : State) : Prop :=
  s.Accepting .collect ∧ s.pace = .full ∧ s.FreqInv ∧ s.nsym ≠ 0 ∧ s.CollectInv

/-! ### What BUILD leaves

Each of the following says of the tree and the codes of `t` what the rules say of them over the frequency table of `s`: BUILD's state before and
after, or one state of READY twice. -/

/-- 42_tree.md R212, 10_state.md R40: the first N nodes are the leaves of the counted symbols, each with its frequency, in ascending order. -/
abbrev LeavesInOrder (s t : State) : Prop :=
  (∀ k, k < s.nsym.toNat → (t.nodeNo k).kind = .leaf ∧ (t.nodeNo k).left = 0 ∧ (t.nodeNo k).right = 0 ∧
    (t.nodeNo k).w = s.freqAt (t.nodeNo k).sym ∧ (t.nodeNo k).w ≠ 0) ∧
  (∀ j k, j < k → k < s.nsym.toNat → (t.nodeNo j).sym < (t.nodeNo k).sym) ∧
  (∀ b, s.freqAt b ≠ 0 → ∃ k, k < s.nsym.toNat ∧ (t.nodeNo k).sym = b)

/-- 42_tree.md R214, R217, 10_state.md R40: nodes N to 2N - 2 are internal, each with the sum of its children's weights and an index above
theirs; every node but the root is one child of exactly one of them; the entries above read zero. -/
abbrev InternalNodesOverLeaves (s t : State) : Prop :=
  (∀ i, s.nsym.toNat ≤ i → i < 2 * s.nsym.toNat - 1 →
    (t.nodeNo i).kind = .internal ∧ (t.nodeNo i).sym = 0 ∧
    (t.nodeNo i).left.toNat < i ∧ (t.nodeNo i).right.toNat < i ∧ (t.nodeNo i).left ≠ (t.nodeNo i).right ∧
    (t.nodeNo i).w.toNat =
      (t.nodeNo (t.nodeNo i).left.toNat).w.toNat + (t.nodeNo (t.nodeNo i).right.toNat).w.toNat) ∧
  (∀ j, j < 2 * s.nsym.toNat - 2 → ∃ i, (s.nsym.toNat ≤ i ∧ i < 2 * s.nsym.toNat - 1 ∧
      ((t.nodeNo i).left.toNat = j ∨ (t.nodeNo i).right.toNat = j)) ∧
    ∀ i', s.nsym.toNat ≤ i' → i' < 2 * s.nsym.toNat - 1 →
      ((t.nodeNo i').left.toNat = j ∨ (t.nodeNo i').right.toNat = j) → i' = i) ∧
  (∀ i, 2 * s.nsym.toNat - 1 ≤ i → t.nodeNo i = Node.zero)

/-- 41_heap.md R187, 42_tree.md R214: every merge takes two lightest nodes, the lighter as LEFT, and later merges take no lighter ones. -/
abbrev LightestMergedFirst (s t : State) : Prop :=
  ∀ i, s.nsym.toNat ≤ i → i < 2 * s.nsym.toNat - 1 →
    (t.nodeNo (t.nodeNo i).left.toNat).w.toNat ≤ (t.nodeNo (t.nodeNo i).right.toNat).w.toNat ∧
    (i + 1 < 2 * s.nsym.toNat - 1 →
      (t.nodeNo (t.nodeNo i).right.toNat).w.toNat ≤ (t.nodeNo (t.nodeNo (i + 1)).left.toNat).w.toNat)

/-- 42_tree.md R216: the root weighs the whole input, and no weight exceeds it. -/
abbrev RootHeaviest (s t : State) : Prop :=
  (t.nodeNo t.root.toNat).w = s.totalLen ∧ ∀ i, (t.nodeNo i).w.toNat ≤ s.totalLen.toNat

/-- 43_codegen.md R244, 10_state.md R42: the length bounds, and that a code fits its length. -/
abbrev CodesWithinBounds (s t : State) : Prop :=
  (∀ b, t.codeLenAt b = 0 ↔ s.freqAt b = 0) ∧
  (s.nsym.toNat = 1 → ∀ b, s.freqAt b ≠ 0 → (t.codeLenAt b).toNat = 1) ∧
  (2 ≤ s.nsym.toNat → ∀ b, s.freqAt b ≠ 0 →
    1 ≤ (t.codeLenAt b).toNat ∧ (t.codeLenAt b).toNat ≤ s.nsym.toNat - 1 ∧ s.nsym.toNat - 1 ≤ 255) ∧
  t.maxLen.toNat ≤ max 1 (s.nsym.toNat - 1) ∧
  (∀ b, (t.codeValAt b).toNat < 2 ^ (t.codeLenAt b).toNat)

/-- 43_codegen.md R245: no code is a prefix of another. -/
abbrev PrefixFree (s t : State) : Prop :=
  ∀ b c, b ≠ c → s.freqAt b ≠ 0 → s.freqAt c ≠ 0 → ¬ t.codeBits b <+: t.codeBits c

/-- 43_codegen.md R246: a higher frequency never gets a longer code. -/
abbrev FrequentNoLonger (s t : State) : Prop :=
  ∀ b c, s.freqAt b ≠ 0 → s.freqAt c ≠ 0 → s.freqAt c < s.freqAt b → (t.codeLenAt b).toNat ≤ (t.codeLenAt c).toNat

/-- 43_codegen.md R243, 10_state.md R42: MAX_LEN is the largest code length. -/
abbrev State.MaxLenIsLargest (t : State) : Prop :=
  (∀ b, (t.codeLenAt b).toNat ≤ t.maxLen.toNat) ∧ (∃ b, t.codeLenAt b = t.maxLen)

/-- What 10_state.md R40 and R42 say of READY: the tree and the codes are those of the frequency table, NNODES = 2N - 1, ROOT = 2N - 2, and
MAX_LEN and EXP_BITS are those of the two tables. -/
abbrev State.Built (s : State) : Prop :=
  s.nnodes.toNat = 2 * s.nsym.toNat - 1 ∧ s.root.toNat = 2 * s.nsym.toNat - 2 ∧
  LeavesInOrder s s ∧ InternalNodesOverLeaves s s ∧ LightestMergedFirst s s ∧ RootHeaviest s s ∧
  CodesWithinBounds s s ∧ PrefixFree s s ∧ FrequentNoLonger s s ∧
  s.MaxLenIsLargest ∧ s.expBits = expBitsOf s.freq.entries s.codeLen.entries

/-- The invariant of the machine: what the core keeps; in READY the tree and the codes of the frequency table (10_state.md R40, R42); TIE_USED 0
while no BUILD has run (R37); and OUT_BYTES counts the bytes the host popped in the session and those in OUTQ (R44, R45). -/
abbrev State.Inv (s : State) : Prop :=
  s.CoreInv ∧ (s.seqPhase = .ready → s.Built) ∧ (s.seqPhase = .collect → s.flight ≠ .build → s.tieUsed = false) ∧
  s.outBytes = BitVec.ofNat 64 (s.sessionOut.length + s.outq.length)

/-- The bits of a byte, bit 7 first: the order of the bitstream (20_memory.md R92). -/
def byteBits (b : Byte) : List Bool := bitsOf b 8

/-- The bits of a sequence of bytes. -/
def bytesBits (bs : List Byte) : List Bool := bs.flatMap byteBits

/-- The bits held in ACC, the earliest-written first (10_state.md R43). -/
def State.held (s : State) : List Bool := bitsOf s.acc s.bitcnt.toNat

/-- What the packer has written and the host has not popped: the bytes of OUTQ, then the held bits. -/
def State.bitstream (s : State) : List Bool := bytesBits s.outq ++ s.held

/-- The FIFO has room for every byte that `n` more bits complete (44_bitpacker.md R263: ⌊(BITCNT + L) / 8⌋ bytes). -/
abbrev State.RoomFor (n : Nat) (s : State) : Prop :=
  s.outq.length + (s.bitcnt.toNat + n) / 8 ≤ s.params.outFifoDepth

/-- The commands of a list, one after the other; the first answer that is no next state ends it. -/
def runCommands : List Instr → State → Answer
  | [], s => .next s
  | i :: is, s =>
    match exec i s with
    | .next t => runCommands is t
    | .fault f => .fault f
    | .refused r => .refused r

/-- The state a host's DRAIN leaves when no command is in flight (30_encoding.md R127; `drain_run` in Laws/Access.lean): every byte of OUTQ
popped, the head first. -/
def State.drained (s : State) : State :=
  { s with outq := [], hostOut := s.hostOut ++ s.outq, sessionOut := s.sessionOut ++ s.outq }

/-- The commands of a list with a DRAIN after each; the first answer that is no next state ends it. -/
def runDrained : List Instr → State → Answer
  | [], s => .next s
  | i :: is, s =>
    match exec i s with
    | .next t => runDrained is t.drained
    | .fault f => .fault f
    | .refused r => .refused r

/-- The host's next access is a hardware reset or writes the exact CLEAR word to CMD. -/
abbrev State.EndsSession (s : State) : Prop :=
  ∃ a rest, s.hostq = a :: rest ∧ (a.op = .reset ∨ a.op = .write (s.params.huffBase + 0x000C) 4 0x00000001)

/-- The last line of `Command(w)`, "execute d", with the family's own error first (60_exceptions.md R341, R342). -/
def familyRule (i : Instr) (w : Word) (s : State) : Answer :=
  match i with
  | .nop => .next s
  | .clear => .next s.clear
  | .count b => if s.totalLen = 0xFFFFFFFF then .next (s.raise .freqOverflow w) else launch (.count b) s
  | .build => if s.nsym = 0 then .next (s.raise .emptyInput w) else launch .build { s with tieUsed := s.tie }
  | .encode b =>
    if s.codeLenAt b = 0 then .next (s.raise .uncodedSymbol w)
    else launch (.write (s.codeBits b) (s.codeLenAt b).toNat true) s
  | .flush => launch .flush s
  | .packRaw n r => launch (.write (rawBits n r) n.toNat false) s

/-- The heap order of 41_heap.md R187: no live entry ranks below its parent. -/
abbrev Heap.Ordered (tieUsed : Bool) (nodes : Table Node 511) (h : Heap) : Prop :=
  ∀ j, 1 ≤ j → j < h.size → less tieUsed nodes (h.at j) (h.at ((j - 1) / 2)) = false

end Sys2Proof.Machine
end

