-- ==== Sys2Proof/Certificates/Slice0/Obligations.lean ====
section
/-! DEFINITION. The statements for the provers, each with the rule of spec/ it formalises. -/

open Sys2Proof Sys2Proof.Machine

/-! ### Encoding -/

/-- Every well-formed command is read back from its own word (30_encoding.md R122 to R125). -/
def Obligations.DecodeOfEncodeIsTheCommand : Prop :=
  ∀ i : Instr, i.wellFormed = true → decode (encode i) = .ok i

/-- A word that decodes is the word of the command it decodes to, which is well-formed (30_encoding.md R124, R125). -/
def Obligations.EncodeOfDecodeIsTheWord : Prop :=
  ∀ (w : Word) (i : Instr), decode w = .ok i → encode i = w ∧ i.wellFormed = true

/-- 30_encoding.md R124, the opcode map: each row's match, mask and extra constraint. -/
def Obligations.WordsAreSelectedByMatchAndMask : Prop :=
  ∀ w : Word,
    (decode w = .ok .nop ↔ w &&& 0xFFFFFFFF = 0x00000000) ∧
    (decode w = .ok .clear ↔ w &&& 0xFFFFFFFF = 0x00000001) ∧
    ((∃ b, decode w = .ok (.count b)) ↔ w &&& 0xFFFF00FF = 0x00000002) ∧
    (decode w = .ok .build ↔ w &&& 0xFFFFFFFF = 0x00000003) ∧
    ((∃ b, decode w = .ok (.encode b)) ↔ w &&& 0xFFFF00FF = 0x00000004) ∧
    (decode w = .ok .flush ↔ w &&& 0xFFFFFFFF = 0x00000005) ∧
    ((∃ n r, decode w = .ok (.packRaw n r)) ↔
      w &&& 0x0000E0FF = 0x00000006 ∧ 1 ≤ (w.extractLsb' 8 5).toNat ∧ (w.extractLsb' 8 5).toNat ≤ 16)

/-- 30_encoding.md R123: BYTE = w[15:8], NBITS = w[12:8], RAW = w[31:16]. -/
def Obligations.OperandsComeFromTheirFields : Prop :=
  ∀ w : Word,
    (∀ b, decode w = .ok (.count b) → b = w.extractLsb' 8 8) ∧
    (∀ b, decode w = .ok (.encode b) → b = w.extractLsb' 8 8) ∧
    (∀ n r, decode w = .ok (.packRaw n r) → n = w.extractLsb' 8 5 ∧ r = w.extractLsb' 16 16)

/-- 30_encoding.md R126: the illegal encodings are the reserved opcodes, the nonzero ZERO fields, and NBITS 0 or 17 to 31; written while no
error is recorded and BUSY = 0, each raises ILLEGAL_COMMAND. -/
def Obligations.IllegalWordsRaiseIllegalCommand : Prop :=
  ∀ w : Word,
    ((∃ e, decode w = .error e) ↔
      (7 ≤ (w.extractLsb' 0 8).toNat ∨
       ((w.extractLsb' 0 8).toNat ∈ [0, 1, 3, 5] ∧ w.extractLsb' 8 24 ≠ 0) ∨
       ((w.extractLsb' 0 8).toNat ∈ [2, 4] ∧ w.extractLsb' 16 16 ≠ 0) ∨
       ((w.extractLsb' 0 8).toNat = 6 ∧
         (w.extractLsb' 13 3 ≠ 0 ∨ (w.extractLsb' 8 5).toNat = 0 ∨ 17 ≤ (w.extractLsb' 8 5).toNat)))) ∧
    (∀ s : State, (∃ e, decode w = .error e) → s.errCode = .none → s.flight = .idle →
      command w s = .next (s.raise .illegalCommand w))

/-- 30_encoding.md R129: the examples of the encoding. -/
def Obligations.SampleWordsDecode : Prop :=
  (∀ p ∈ ([(.nop, 0x00000000), (.clear, 0x00000001), (.count 0x61, 0x00006102), (.build, 0x00000003), (.encode 0x61, 0x00006104),
      (.encode 0xFF, 0x0000FF04), (.flush, 0x00000005), (.packRaw 3 0b101, 0x00050306), (.packRaw 16 0xFFFF, 0xFFFF1006)] :
      List (Instr × Word)), encode p.1 = p.2 ∧ decode p.2 = .ok p.1) ∧
  encode (.packRaw 0 0) = 0x00000006 ∧ decode 0x00000006 = .error .nbitsRange ∧
  encode (.packRaw 17 0) = 0x00001106 ∧ decode 0x00001106 = .error .nbitsRange ∧
  decode 0x00000107 = .error .reservedOpcode ∧ decode 0x00010002 = .error .zeroField

/-! ### A step and the checks of a command word -/

/-- A host write of a command's word to CMD runs that command (20_memory.md R86): the step is `exec` of it, on the state with the access
taken off the host's list and its pace set.
The list and the pace are the model's (notes/assumptions/1.md, 5.md). -/
def Obligations.StepRunsTheDecodedCommand : Prop :=
  ∀ (s : State) (w : Word) (i : Instr) (p : Pace) (rest : List HostAccess),
    s.hostq = ⟨.write (s.params.huffBase + 0x000C) 4 w, p⟩ :: rest → decode w = .ok i →
    step s = exec i { s with hostq := rest, pace := p }

/-- A command placed for the machine to fetch is the one its next step runs (notes/assumptions/1.md). -/
def Obligations.FetchedCommandIsTheOneRun : Prop :=
  ∀ (s : State) (i : Instr), i.wellFormed = true →
    step (s.withFetchWord 32 (encode i).toNat) = exec i { s with pace := .full }

/-- 60_exceptions.md R341: the checks of `Command(w)`, in order, with the phases in which each command is legal (45_control.md R301). -/
def Obligations.CommandChecksInOrder : Prop :=
  (∀ (p : Phase) (b : Byte) (n : BitVec 5) (r : BitVec 16),
    legalIn .nop p = true ∧ legalIn .clear p = true ∧
    (legalIn (.count b) p = true ↔ p = .collect) ∧ (legalIn .build p = true ↔ p = .collect) ∧
    (legalIn (.encode b) p = true ↔ p = .ready) ∧ (legalIn .flush p = true ↔ p = .ready) ∧
    (legalIn (.packRaw n r) p = true ↔ p = .ready)) ∧
  ∀ (w : Word) (s : State),
    command w s =
      if w = 0x00000001 then .next s.clear
      else if s.errCode ≠ .none then settle (advance s)
      else if s.busy = true then settle (advance (s.raise .busyViolation w))
      else match decode w with
        | .error _ => .next (s.raise .illegalCommand w)
        | .ok i => if legalIn i s.seqPhase = true then familyRule i w s else .next (s.raise .sequence w)

/-- 60_exceptions.md R344: in ERROR every word but the exact CLEAR word has no effect (a command in flight goes on), and the first error of
the session is kept. -/
def Obligations.ErrorStateIgnoresEveryWord : Prop :=
  ∀ (w : Word) (s : State), s.errCode ≠ .none → w ≠ 0x00000001 →
    command w s = settle (advance s) ∧ (s.flight = .idle → command w s = .next s) ∧
    (∀ t, command w s = .next t → t.errCode = s.errCode ∧ t.errCmd = s.errCmd)

/-- 60_exceptions.md R346, 10_state.md R35: a step leaves a recorded error as it is, unless the host's access is the exact CLEAR word or
the platform resets; then no error is left. -/
def Obligations.OnlyClearAndResetEndAnError : Prop :=
  ∀ s t : State, step s = .next t → s.errCode ≠ .none →
    (t.errCode = s.errCode ∧ t.errCmd = s.errCmd) ∨ (s.EndsSession ∧ t.errCode = .none ∧ t.errCmd = 0)

/-- 60_exceptions.md R345: a word other than CLEAR written while BUSY = 1 is dropped, and raises BUSY_VIOLATION if no error was recorded;
PHASE reads ERROR at once; the command in flight does what it would have done, and BUSY falls when it ends. -/
def Obligations.BusyViolationDropsTheWord : Prop :=
  ∀ (w : Word) (s : State), s.busy = true → w ≠ 0x00000001 →
    (s.errCode ≠ .none → command w s = settle (advance s)) ∧
    (s.errCode = .none →
      command w s = settle (advance { s with errCode := .busyViolation, errCmd := w }) ∧
      State.phaseBits { s with errCode := .busyViolation, errCmd := w } = 3 ∧
      (∀ k t, coreSteps k s = .ok t →
        coreSteps k { s with errCode := .busyViolation, errCmd := w } = .ok { t with errCode := .busyViolation, errCmd := w } ∧
        State.busy { t with errCode := .busyViolation, errCmd := w } = t.busy))

/-- 45_control.md R301: the commands that are not legal in the phase raise SEQUENCE, for every operand. -/
def Obligations.OutOfPhaseCommandsRaiseSequence : Prop :=
  ∀ s : State, s.errCode = .none → s.flight = .idle →
    (s.seqPhase = .ready →
      (∀ b, exec (.count b) s = .next (s.raise .sequence (encode (.count b)))) ∧
      exec .build s = .next (s.raise .sequence (encode .build))) ∧
    (s.seqPhase = .collect →
      (∀ b, exec (.encode b) s = .next (s.raise .sequence (encode (.encode b)))) ∧
      exec .flush s = .next (s.raise .sequence (encode .flush)) ∧
      (∀ n r, (Instr.packRaw n r).wellFormed = true →
        exec (.packRaw n r) s = .next (s.raise .sequence (encode (.packRaw n r)))))

/-- 60_exceptions.md R343: a command word that raises an error with BUSY = 0 records its code and itself and changes nothing else;
STATUS.ERR = 1 and PHASE = ERROR. -/
def Obligations.ErrorsArePrecise : Prop :=
  ∀ (w : Word) (s t : State), s.errCode = .none → s.busy = false → command w s = .next t → t.errCode ≠ .none →
    t = { s with errCode := t.errCode, errCmd := w } ∧ t.errFlag = true ∧ t.phaseBits = 3

/-! ### NOP, CLEAR and reset -/

/-- 45_control.md R300: NOP does nothing, in both phases. -/
def Obligations.NopChangesNothing : Prop :=
  ∀ s : State, s.errCode = .none → s.flight = .idle → exec .nop s = .next s

/-- 45_control.md R303, R304: CLEAR in any state, with or without a command in flight; the host's lists are the model's
(notes/assumptions/10.md, 16.md). -/
def Obligations.ClearEndsTheSession : Prop :=
  ∀ s : State, ∃ t, exec .clear s = .next t ∧
    t.freq = .fill 0 ∧ t.totalLen = 0 ∧ t.nsym = 0 ∧ t.node = .fill Node.zero ∧ t.nnodes = 0 ∧ t.root = 0 ∧ t.heap.size = 0 ∧
    t.codeLen = .fill 0 ∧ t.codeVal = .fill 0 ∧ t.maxLen = 0 ∧ t.expBits = 0 ∧ t.acc = 0 ∧ t.bitcnt = 0 ∧ t.lastPad = 0 ∧
    t.dataBits = 0 ∧ t.outBytes = 0 ∧ t.encCount = 0 ∧ t.tieUsed = false ∧ t.errCode = .none ∧ t.errCmd = 0 ∧
    t.seqPhase = .collect ∧ t.busy = false ∧ t.outq = [] ∧ t.tie = s.tie ∧
    t.params = s.params ∧ t.hostq = s.hostq ∧ t.hostOut = s.hostOut ∧ t.hostRd = s.hostRd ∧ t.file = s.file ∧ t.sessionOut = [] ∧
    (s.params.wf → t.status = 0)

/-- 70_reset_and_hazards.md R382: reset and CLEAR differ in CTRL.TIE alone, and reset is the platform's. That reset is one entry of the host's
list is the model's choice (notes/assumptions/15.md), and so is that both leave HEAP's entries (3.md) and the host's fields as they are. -/
def Obligations.ResetIsClearWithTieZero : Prop :=
  ∀ (s : State) (p : Pace) (rest : List HostAccess), s.hostq = ⟨.reset, p⟩ :: rest →
    ∃ t, step s = .next t ∧ t.tie = false ∧
      exec .clear { s with hostq := rest, pace := p } = .next { t with tie := s.tie }

/-- 10_state.md R32, 70_reset_and_hazards.md R380: the values the spec gives for reset. -/
def Obligations.ResetLeavesTheInitialState : Prop :=
  ∀ p : Params, p.wf → ∀ t, t = State.resetAt p →
    t.tie = false ∧ t.tieUsed = false ∧ t.seqPhase = .collect ∧ t.busy = false ∧ t.errCode.toBits = 0 ∧ t.errCmd = 0 ∧
    (∀ b, t.freqAt b = 0) ∧ t.totalLen = 0 ∧ t.nsym = 0 ∧ (∀ i, t.nodeNo i = ⟨.leaf, 0, 0, 0, 0⟩) ∧ t.nnodes = 0 ∧ t.root = 0 ∧
    t.heap.size = 0 ∧ (∀ b, t.codeLenAt b = 0 ∧ t.codeValAt b = 0) ∧ t.maxLen = 0 ∧ t.expBits = 0 ∧ t.acc = 0 ∧ t.bitcnt = 0 ∧
    t.lastPad = 0 ∧ t.dataBits = 0 ∧ t.outBytes = 0 ∧ t.encCount = 0 ∧ t.outq = [] ∧ t.status = 0

/-! ### COUNT -/

/-- 40_frequency.md R160: COUNT in COLLECT adds one to FREQ[b] and TOTAL_LEN, raises NSYM on a first occurrence, and changes nothing else;
at the 2^32 - 1 limit it raises FREQ_OVERFLOW and changes no table.
Pace `full` is the model's hypothesis (notes/assumptions/5.md). -/
def Obligations.CountAddsOne : Prop :=
  ∀ (b : Byte) (s : State), s.Accepting .collect →
    (s.totalLen ≠ 0xFFFFFFFF → s.pace = .full →
      ∃ t, exec (.count b) s = .next t ∧
        t = { s with freq := t.freq, nsym := t.nsym, totalLen := t.totalLen } ∧
        t.totalLen = s.totalLen + 1 ∧ t.freqAt b = s.freqAt b + 1 ∧ (∀ c, c ≠ b → t.freqAt c = s.freqAt c) ∧
        t.nsym = (if s.freqAt b = 0 then s.nsym + 1 else s.nsym)) ∧
    (s.totalLen = 0xFFFFFFFF → exec (.count b) s = .next (s.raise .freqOverflow (encode (.count b))))

/-- 40_frequency.md R161: after any sequence of accepted COUNT commands, each FREQ has grown by the number of occurrences of its symbol,
whatever the order, no counter has wrapped, and nothing outside FREQ, NSYM and TOTAL_LEN has changed.
Pace `full` is the model's hypothesis (notes/assumptions/5.md). -/
def Obligations.CountsAreOrderFree : Prop :=
  ∀ (bs : List Byte) (s : State), s.Accepting .collect → s.pace = .full → s.FreqInv →
    s.totalLen.toNat + bs.length < 2 ^ 32 →
    ∃ t, runCommands (bs.map Instr.count) s = .next t ∧
      t = { s with freq := t.freq, nsym := t.nsym, totalLen := t.totalLen } ∧
      (∀ c, (t.freqAt c).toNat = (s.freqAt c).toNat + bs.count c) ∧
      t.totalLen.toNat = s.totalLen.toNat + bs.length ∧ t.FreqInv

/-! ### BUILD -/

/-- 40_frequency.md R162: BUILD with NSYM = 0 raises EMPTY_INPUT and writes no node, heap or code entry. -/
def Obligations.EmptyBuildIsRejected : Prop :=
  ∀ s : State, s.Accepting .collect → s.nsym = 0 → exec .build s = .next { s with errCode := .emptyInput, errCmd := 0x00000003 }

/-- 42_tree.md R210, R215, R217, 43_codegen.md R243: BUILD completes, leaves the core READY with 2N - 1 nodes and the root at 2N - 2, and
writes nothing but what R210 lists.
Pace `full` is the model's hypothesis (notes/assumptions/5.md). -/
def Obligations.BuildCompletes : Prop :=
  ∀ s : State, s.Accepting .collect → s.pace = .full → s.FreqInv → s.nsym ≠ 0 →
    ∃ t, exec .build s = .next t ∧ t.seqPhase = .ready ∧ t.busy = false ∧ t.tieUsed = s.tie ∧ t.heap.size = 0 ∧
      t.nnodes.toNat = 2 * s.nsym.toNat - 1 ∧ t.root.toNat = 2 * s.nsym.toNat - 2 ∧
      (∀ b, (t.codeLenAt b).toNat ≤ t.maxLen.toNat) ∧ (∃ b, t.codeLenAt b = t.maxLen) ∧
      t.expBits.toNat = ((List.range 256).map fun k =>
        (s.freqAt (BitVec.ofNat 8 k)).toNat * (t.codeLenAt (BitVec.ofNat 8 k)).toNat).sum ∧
      t = { s with
        tieUsed := t.tieUsed, node := t.node, nnodes := t.nnodes, root := t.root, heap := t.heap, codeLen := t.codeLen,
        codeVal := t.codeVal, maxLen := t.maxLen, expBits := t.expBits, seqPhase := t.seqPhase }

/-- 43_codegen.md R242: the one symbol of an input gets the one-bit code "0".
Pace `full` is the model's hypothesis (notes/assumptions/5.md). -/
def Obligations.OneSymbolGetsTheCodeZero : Prop :=
  ∀ (s : State) (b : Byte) (f : Word), s.Accepting .collect → s.pace = .full → s.CollectInv → f ≠ 0 →
    s.freq = (Table.fill 0).write b.toNat f → s.nsym = 1 →
    ∃ t, exec .build s = .next t ∧ t.seqPhase = .ready ∧ t.codeLenAt b = 1 ∧ t.codeValAt b = 0 ∧
      (∀ c, c ≠ b → t.codeLenAt c = 0 ∧ t.codeValAt c = 0) ∧ t.maxLen = 1 ∧ t.expBits = f.setWidth 64 ∧
      t.nnodes = 1 ∧ t.root = 0 ∧ t.nodeNo 0 = ⟨.leaf, b, f, 0, 0⟩

/-- 42_tree.md R212: after BUILD the first N nodes are the leaves of the counted symbols, each with its frequency, in ascending order. -/
def Obligations.LeavesStandInSymbolOrder : Prop :=
  ∀ s t : State, s.Buildable → exec .build s = .next t → LeavesInOrder s t

/-- 42_tree.md R214, R217: after BUILD nodes N to 2N - 2 are internal, each with the sum of its children's weights and an index above theirs,
and every node but the root is one child of exactly one of them; the entries above read zero. -/
def Obligations.InternalNodesFormATree : Prop :=
  ∀ s t : State, s.Buildable → exec .build s = .next t → InternalNodesOverLeaves s t

/-- 41_heap.md R187, 42_tree.md R214: every merge takes two lightest nodes, the lighter as LEFT, and later merges take no lighter ones. -/
def Obligations.MergesTakeTheLightestNodes : Prop :=
  ∀ s t : State, s.Buildable → exec .build s = .next t → LightestMergedFirst s t

/-- 42_tree.md R216: the root weighs the whole input, and no weight exceeds it. -/
def Obligations.RootWeighsTheWholeInput : Prop :=
  ∀ s t : State, s.Buildable → exec .build s = .next t → RootHeaviest s t

/-- 43_codegen.md R244: the length bounds after BUILD; and 10_state.md R42: a code fits its own length. -/
def Obligations.CodeLengthsAreBounded : Prop :=
  ∀ s t : State, s.Buildable → exec .build s = .next t → CodesWithinBounds s t

/-- 43_codegen.md R245: after BUILD no code is a prefix of another. -/
def Obligations.CodesArePrefixFree : Prop :=
  ∀ s t : State, s.Buildable → exec .build s = .next t → PrefixFree s t

/-- 43_codegen.md R246: a higher frequency never gets a longer code, under both tie orders. -/
def Obligations.HigherFrequencyNoLongerCode : Prop :=
  ∀ s t : State, s.Buildable → exec .build s = .next t → FrequentNoLonger s t

/-- 41_heap.md R187: `build`, `insert` and `extract_min` leave no live entry below its parent, and the entry extracted is one that no live entry
ranks below; for both tie orders, on any weights. -/
def Obligations.HeapOperationsKeepTheOrder : Prop :=
  ∀ (tie : Bool) (nodes : Table Node 511) (h : Heap), h.size ≤ 256 →
    (h.build tie nodes).Ordered tie nodes ∧
    (h.Ordered tie nodes → ∀ n h', h.insert tie nodes n = .ok h' → h'.Ordered tie nodes) ∧
    (h.Ordered tie nodes → ∀ m h', h.extractMin tie nodes = .ok (m, h') →
      h'.Ordered tie nodes ∧ ∀ j, j < h'.size → less tie nodes (h'.at j) m = false)

/-- 41_heap.md R188, 10_state.md R49: BUILD is a function of the frequency table and the tie mode alone; what HEAP held before does not
matter. -/
def Obligations.BuildDependsOnFrequenciesAndTieAlone : Prop :=
  ∀ s s' t t' : State, s.Buildable → s'.Buildable → s.freq = s'.freq → s.tie = s'.tie →
    exec .build s = .next t → exec .build s' = .next t' →
    t.node = t'.node ∧ t.nnodes = t'.nnodes ∧ t.root = t'.root ∧ t.codeLen = t'.codeLen ∧ t.codeVal = t'.codeVal ∧
    t.maxLen = t'.maxLen ∧ t.expBits = t'.expBits ∧ t.tieUsed = t'.tieUsed

/-- 42_tree.md R211, 70_reset_and_hazards.md R393: TIE_USED takes CTRL.TIE as BUILD starts, and a CTRL write while a command runs changes
nothing that the command does. -/
def Obligations.TieIsSampledWhenBuildStarts : Prop :=
  (∀ s t : State, s.Accepting .collect → s.nsym ≠ 0 → exec .build s = .next t → t.tieUsed = s.tie) ∧
  (∀ (s t : State) (k : Nat) (v : Bool), coreSteps k s = .ok t → coreSteps k { s with tie := v } = .ok { t with tie := v })

/-! ### The bit packer -/

/-- 44_bitpacker.md R260, R261, 20_memory.md R92: `write` (the loop of `write_bit`, then `State.finishWrite`) appends its bits to the bitstream in
order, adds their number to DATA_BITS, counts an ENCODE in ENC_COUNT (R263) and a PACK_RAW not (R265), and touches nothing else but ACC, BITCNT,
OUTQ and OUT_BYTES; for an output FIFO that has room. The bits of `write(v, n)` are `v[n-1]` down to `v[0]`. -/
def Obligations.WriteAppendsItsBits : Prop :=
  (∀ (s t : State) (bits : List Bool) (enc : Bool), t = (s.writeBits bits).finishWrite bits.length enc →
    t.bitstream = s.bitstream ++ bits ∧
    t.bitcnt.toNat = (s.bitcnt.toNat + bits.length) % 8 ∧
    t.outq.length = s.outq.length + (s.bitcnt.toNat + bits.length) / 8 ∧
    t = { s with
      acc := t.acc, bitcnt := t.bitcnt, outq := t.outq,
      outBytes := s.outBytes + BitVec.ofNat 64 ((s.bitcnt.toNat + bits.length) / 8),
      dataBits := s.dataBits + BitVec.ofNat 64 bits.length,
      encCount := if enc = true then s.encCount + 1 else s.encCount }) ∧
  (∀ (v : Code) (n : Nat), bitsOf v n = (List.range n).reverse.map (fun k => v.getLsbD k))

/-- 44_bitpacker.md R263: ENCODE of a coded symbol in READY, with room in the FIFO for its bytes, writes the symbol's code; of a symbol that has
none, it raises UNCODED_SYMBOL.
Pace `full` is the model's hypothesis (notes/assumptions/5.md). -/
def Obligations.EncodeWritesTheCode : Prop :=
  ∀ (s : State) (b : Byte), s.Accepting .ready →
    (s.codeLenAt b ≠ 0 → s.pace = .full → s.RoomFor (s.codeLenAt b).toNat →
      ∃ t, exec (.encode b) s = .next t ∧ t.busy = false ∧
        t.bitstream = s.bitstream ++ s.codeBits b ∧
        t.bitcnt.toNat = (s.bitcnt.toNat + (s.codeLenAt b).toNat) % 8 ∧
        t.dataBits = s.dataBits + (s.codeLenAt b).setWidth 64 ∧ t.encCount = s.encCount + 1 ∧
        t.outBytes = s.outBytes + BitVec.ofNat 64 ((s.bitcnt.toNat + (s.codeLenAt b).toNat) / 8) ∧
        t = { s with
          acc := t.acc, bitcnt := t.bitcnt, outq := t.outq, outBytes := t.outBytes, dataBits := t.dataBits, encCount := t.encCount }) ∧
    (s.codeLenAt b = 0 → exec (.encode b) s = .next (s.raise .uncodedSymbol (encode (.encode b))))

/-- 44_bitpacker.md R262, R264: FLUSH in READY; with held bits it needs room for one byte.
Pace `full` is the model's hypothesis (notes/assumptions/5.md). -/
def Obligations.FlushPadsAndEmits : Prop :=
  ∀ s : State, s.Accepting .ready → s.pace = .full →
    (s.bitcnt = 0 → exec .flush s = .next { s with lastPad := 0 }) ∧
    (s.bitcnt ≠ 0 → s.outq.length < s.params.outFifoDepth →
      ∃ t, exec .flush s = .next t ∧ t.busy = false ∧ t.acc = 0 ∧ t.bitcnt = 0 ∧
        t.lastPad.toNat = 8 - s.bitcnt.toNat ∧ t.outBytes = s.outBytes + 1 ∧ t.outq.length = s.outq.length + 1 ∧
        t.bitstream = s.bitstream ++ List.replicate t.lastPad.toNat false ∧
        t = { s with acc := t.acc, bitcnt := t.bitcnt, lastPad := t.lastPad, outq := t.outq, outBytes := t.outBytes })

/-- 44_bitpacker.md R265: PACK_RAW with NBITS from 1 to 16 in READY, with room for its bytes, writes `RAW[NBITS-1:0]`.
Pace `full` is the model's hypothesis (notes/assumptions/5.md). -/
def Obligations.PackRawWritesItsBits : Prop :=
  ∀ (s : State) (n : BitVec 5) (r : BitVec 16), s.Accepting .ready → s.pace = .full → 1 ≤ n.toNat → n.toNat ≤ 16 →
    s.RoomFor n.toNat →
    ∃ t, exec (.packRaw n r) s = .next t ∧ t.busy = false ∧
      t.bitstream = s.bitstream ++ (List.range n.toNat).reverse.map (fun k => r.getLsbD k) ∧
      t.bitcnt.toNat = (s.bitcnt.toNat + n.toNat) % 8 ∧ t.dataBits = s.dataBits + n.setWidth 64 ∧
      t.outBytes = s.outBytes + BitVec.ofNat 64 ((s.bitcnt.toNat + n.toNat) / 8) ∧
      t = { s with acc := t.acc, bitcnt := t.bitcnt, outq := t.outq, outBytes := t.outBytes, dataBits := t.dataBits }

/-- 30_encoding.md R123: two PACK_RAW commands that agree on `RAW[NBITS-1:0]` do the same in READY. -/
def Obligations.PackRawIgnoresTheBitsAbove : Prop :=
  ∀ (s : State) (n : BitVec 5) (r r' : BitVec 16), s.Accepting .ready → 1 ≤ n.toNat → n.toNat ≤ 16 →
    (∀ k, k < n.toNat → r.getLsbD k = r'.getLsbD k) → exec (.packRaw n r) s = exec (.packRaw n r') s

/-- 44_bitpacker.md R269, 70_reset_and_hazards.md R392: a packer command whose bytes do not fit fills the FIFO and waits with BUSY = 1, the bits
it has not written left in flight, and the core stays as it is until the FIFO has room.
That it stops before the bit that completes a byte, and pace `full`, are the model's (notes/assumptions/5.md, 6.md). -/
def Obligations.FullFifoStallsThePacker : Prop :=
  ∀ s : State, s.Accepting .ready → s.pace = .full → s.outq.length ≤ s.params.outFifoDepth →
    (∀ b, s.codeLenAt b ≠ 0 → ¬ s.RoomFor (s.codeLenAt b).toNat →
      ∃ t, exec (.encode b) s = .next t ∧ t.busy = true ∧ t.outq.length = s.params.outFifoDepth ∧
        (∃ n, n < (s.codeBits b).length ∧ t.bitstream = s.bitstream ++ (s.codeBits b).take n ∧
          t.flight = .write ((s.codeBits b).drop n) (s.codeLenAt b).toNat true) ∧
        t.dataBits = s.dataBits ∧ t.encCount = s.encCount ∧ coreStep t = .ok t) ∧
    (∀ n r, 1 ≤ n.toNat → n.toNat ≤ 16 → ¬ s.RoomFor n.toNat →
      ∃ t, exec (.packRaw n r) s = .next t ∧ t.busy = true ∧ t.outq.length = s.params.outFifoDepth ∧
        (∃ k, k < (rawBits n r).length ∧ t.bitstream = s.bitstream ++ (rawBits n r).take k ∧
          t.flight = .write ((rawBits n r).drop k) n.toNat false) ∧
        t.dataBits = s.dataBits ∧ t.encCount = s.encCount ∧ coreStep t = .ok t) ∧
    (s.bitcnt ≠ 0 → s.outq.length = s.params.outFifoDepth →
      ∃ t, exec .flush s = .next t ∧ t = { s with flight := .flush } ∧ coreStep t = .ok t)

/-- 70_reset_and_hazards.md R392: with OUT_FIFO_DEPTH >= 32 and the FIFO drained before the command, no command stalls.
Pace `full` is the model's hypothesis (notes/assumptions/5.md). -/
def Obligations.DeepDrainedFifoNeverStalls : Prop :=
  ∀ (i : Instr) (s t : State), s.errCode = .none → s.flight = .idle → s.pace = .full → 32 ≤ s.params.outFifoDepth → s.outq = [] →
    exec i s = .next t → t.busy = false

/-- 30_encoding.md R127, 70_reset_and_hazards.md R392: WAIT drains while it waits, so a packer command that is stalled or running always finishes:
every bit of an ENCODE or a PACK_RAW reaches HOSTOUT, OUTQ or ACC, in order, and is counted; a FLUSH leaves the held bits and their padding in
HOSTOUT or OUTQ.
Pace `full` stands for fairness (notes/assumptions/5.md, 11.md). -/
def Obligations.WaitFinishesAStalledCommand : Prop :=
  ∀ (s : State) (rest : List HostAccess), s.hostq = ⟨.wait, .full⟩ :: rest → 1 ≤ s.params.outFifoDepth →
    (∀ (bits : List Bool) (n : Nat) (enc : Bool), s.flight = .write bits n enc →
      ∃ k t, Host.Core.run core k s = .next t ∧ t.busy = false ∧ t.hostq = rest ∧
        bytesBits t.hostOut ++ t.bitstream = bytesBits s.hostOut ++ s.bitstream ++ bits ∧
        t.dataBits = s.dataBits + BitVec.ofNat 64 n ∧ t.encCount = (if enc = true then s.encCount + 1 else s.encCount)) ∧
    (s.flight = .flush →
      ∃ k t, Host.Core.run core k s = .next t ∧ t.busy = false ∧ t.hostq = rest ∧ t.bitcnt = 0 ∧
        t.lastPad.toNat = (8 - s.bitcnt.toNat) % 8 ∧
        bytesBits t.hostOut ++ bytesBits t.outq =
          bytesBits s.hostOut ++ s.bitstream ++ List.replicate t.lastPad.toNat false ∧
        t.dataBits = s.dataBits ∧ t.encCount = s.encCount)

/-- 44_bitpacker.md R266: ENCODE of a sequence of coded symbols and one FLUSH, from an empty packer: the bytes are the concatenation of the codes
in input order, padded with zero bits to the next byte boundary; and (R267) they number DATA_BITS / 8 rounded up. With room in the FIFO for all
of them; or, at a depth of 32 or more, for any number of symbols, when the host drains after each command.
Pace `full` is the model's hypothesis (notes/assumptions/5.md), and the host's lists of popped bytes are the model's (10.md, 16.md). -/
def Obligations.StreamIsTheConcatenationOfTheCodes : Prop :=
  ∀ (s : State) (bs : List Byte), s.Accepting .ready → s.pace = .full → s.bitcnt = 0 → s.outq = [] → s.dataBits = 0 →
    s.outBytes = 0 → (∀ b ∈ bs, s.codeLenAt b ≠ 0) →
    (((bs.flatMap s.codeBits).length + 7) / 8 ≤ s.params.outFifoDepth → s.params.outFifoDepth ≤ 65535 →
      ∃ t, runCommands (bs.map Instr.encode ++ [.flush]) s = .next t ∧ t.busy = false ∧ t.bitcnt = 0 ∧
        bytesBits t.outq = bs.flatMap s.codeBits ++ List.replicate t.lastPad.toNat false ∧
        t.lastPad.toNat = (8 - (bs.flatMap s.codeBits).length % 8) % 8 ∧
        t.dataBits.toNat = (bs.flatMap s.codeBits).length ∧ t.outBytes.toNat = (t.dataBits.toNat + 7) / 8 ∧
        t.encCount = s.encCount + BitVec.ofNat 64 bs.length) ∧
    (32 ≤ s.params.outFifoDepth → (bs.flatMap s.codeBits).length < 2 ^ 64 →
      ∃ t bytes, runDrained (bs.map Instr.encode ++ [.flush]) s = .next t ∧ t.busy = false ∧ t.bitcnt = 0 ∧ t.outq = [] ∧
        t.hostOut = s.hostOut ++ bytes ∧ t.sessionOut = s.sessionOut ++ bytes ∧
        bytesBits bytes = bs.flatMap s.codeBits ++ List.replicate t.lastPad.toNat false ∧
        t.lastPad.toNat = (8 - (bs.flatMap s.codeBits).length % 8) % 8 ∧
        t.dataBits.toNat = (bs.flatMap s.codeBits).length ∧ t.outBytes.toNat = (t.dataBits.toNat + 7) / 8 ∧
        t.encCount = s.encCount + BitVec.ofNat 64 bs.length)

/-- 44_bitpacker.md R268: when the ENCODE operands are the counted bytes in some order, each once, the data bits written are EXP_BITS and
ENC_COUNT is TOTAL_LEN: with room in the FIFO for all of them; or, at a depth of 32 or more, for any input, when the host drains after each
command.
Pace `full` is the model's hypothesis (notes/assumptions/5.md). -/
def Obligations.DataBitsEqualExpectedBits : Prop :=
  ∀ (s : State) (bs : List Byte), s.Accepting .ready → s.pace = .full → s.dataBits = 0 → s.encCount = 0 → s.FreqInv →
    (∀ b, (s.freqAt b).toNat = bs.count b) → (∀ b, s.freqAt b ≠ 0 → s.codeLenAt b ≠ 0) →
    s.expBits = expBitsOf s.freq.entries s.codeLen.entries →
    (s.RoomFor (bs.flatMap s.codeBits).length →
      ∃ t, runCommands (bs.map Instr.encode) s = .next t ∧ t.dataBits = s.expBits ∧ t.encCount = s.totalLen.setWidth 64) ∧
    (32 ≤ s.params.outFifoDepth → s.outq = [] →
      ∃ t, runDrained (bs.map Instr.encode) s = .next t ∧ t.dataBits = s.expBits ∧ t.encCount = s.totalLen.setWidth 64)

/-! ### The register window -/

/-- 20_memory.md R81, R87: the accesses the core takes are those 32 bits wide, at a multiple of 4, inside the window; every other is refused. R87
has the refusal of another width or alignment; that an access outside the window is refused too is the model's reading of R81, DEDUCED
(notes/assumptions/8.md). -/
def Obligations.OnlyWholeWordsInTheWindowAreTaken : Prop :=
  ∀ s : State, s.params.wf → ∀ (addr width : Nat) (v : Word) (p : Pace) (rest : List HostAccess),
    ¬ (s.params.huffBase ≤ addr ∧ addr < s.params.huffBase + 0x8000 ∧ width = 4 ∧ addr % 4 = 0) →
    (s.hostq = ⟨.read addr width, p⟩ :: rest → ∃ r, step s = .refused r) ∧
    (s.hostq = ⟨.write addr width v, p⟩ :: rest → ∃ r, step s = .refused r)

/-- 20_memory.md R85, R91: a read inside the window, other than of OUT_DATA, changes nothing but the host's own record of it (and the count of
free values drawn); then the core goes on.
The record and the count are the model's (notes/assumptions/4.md, 10.md). -/
def Obligations.ReadsLeaveTheCoreAlone : Prop :=
  ∀ (s : State) (off : Nat) (p : Pace) (rest : List HostAccess), off < 0x8000 → off % 4 = 0 → off ≠ 0x0060 →
    s.hostq = ⟨.read (s.params.huffBase + off) 4, p⟩ :: rest →
    ∃ v d, step s = settle (advance { s with hostq := rest, pace := p, hostRd := s.hostRd ++ [v], draws := d })

/-- 20_memory.md R88: a read of OUT_DATA, also while BUSY = 1. That the byte popped by an explicit read joins HOSTOUT, and that the host keeps the
value read, is the model's choice (notes/assumptions/10.md). -/
def Obligations.OutDataPopsTheHead : Prop :=
  ∀ (s : State) (p : Pace) (rest : List HostAccess), s.hostq = ⟨.read (s.params.huffBase + 0x0060) 4, p⟩ :: rest →
    (s.outq = [] → step s = settle (advance { s with hostq := rest, pace := p, hostRd := s.hostRd ++ [0] })) ∧
    (∀ b q, s.outq = b :: q → step s = settle (advance { s with
      hostq := rest, pace := p, outq := q, hostOut := s.hostOut ++ [b], sessionOut := s.sessionOut ++ [b],
      hostRd := s.hostRd ++ [(1#32 <<< 8) ||| b.setWidth 32] }))

/-- 20_memory.md R83: the table windows, read with BUSY = 0. -/
def Obligations.TableWindowsRead : Prop :=
  ∀ s : State, s.busy = false →
    (∀ b : Byte, (hostRead (regAt (0x0400 + 4 * b.toNat)) s).2 = s.freqAt b ∧
      (hostRead (regAt (0x0800 + 4 * b.toNat)) s).2 = (s.codeLenAt b).setWidth 32) ∧
    (∀ (b : Byte) (k : Nat), k < 8 →
      (hostRead (regAt (0x1000 + 32 * b.toNat + 4 * k)) s).2 = ((s.codeValAt b).setWidth 256).extractLsb' (32 * k) 32) ∧
    (∀ i f : Nat, i ≤ 511 → f < 4 → (s.nnodes.toNat ≤ i ∨ i = 511) →
      (hostRead (regAt (0x4000 + 16 * i + 4 * f)) s).2 = 0) ∧
    (∀ i : Nat, i < s.nnodes.toNat → i < 511 →
      (hostRead (regAt (0x4000 + 16 * i)) s).2 = (s.nodeNo i).w ∧
      (hostRead (regAt (0x4000 + 16 * i + 4)) s).2 =
        ((if (s.nodeNo i).kind = .internal then 1#32 else 0#32) <<< 16) ||| (s.nodeNo i).sym.setWidth 32 ∧
      (hostRead (regAt (0x4000 + 16 * i + 8)) s).2 = (s.nodeNo i).left.setWidth 32 ∧
      (hostRead (regAt (0x4000 + 16 * i + 12)) s).2 = (s.nodeNo i).right.setWidth 32)

/-- 20_memory.md R82, R88, R89, 10_state.md R46: the value each single register reads with BUSY = 0, at its offset; what a read of OUT_DATA does
besides is OutDataPopsTheHead's. -/
def Obligations.SingleRegistersRead : Prop :=
  ∀ s : State, s.busy = false → ∀ rd : Nat → Word, (∀ off, rd off = (hostRead (regAt off) s).2) →
    rd 0x0000 = 0x48554646 ∧ rd 0x0004 = 0x00FF0000 ||| BitVec.ofNat 32 (s.params.outFifoDepth % 65536) ∧
    rd 0x0008 = (if s.tie then 1 else 0) ∧ rd 0x000C = 0 ∧ rd 0x0010 = s.status ∧
    rd 0x0014 = s.errCode.toBits.setWidth 32 ∧ rd 0x0018 = s.errCmd ∧ rd 0x001C = s.nsym.setWidth 32 ∧ rd 0x0020 = s.totalLen ∧
    rd 0x0024 = s.nnodes.setWidth 32 ∧ rd 0x0028 = s.root.setWidth 32 ∧ rd 0x002C = s.maxLen.setWidth 32 ∧
    rd 0x0034 ++ rd 0x0030 = s.expBits ∧ rd 0x003C ++ rd 0x0038 = s.dataBits ∧ rd 0x0044 ++ rd 0x0040 = s.outBytes ∧
    rd 0x004C ++ rd 0x0048 = s.encCount ∧ rd 0x0050 = s.acc.setWidth 32 ∧ rd 0x0054 = s.bitcnt.setWidth 32 ∧
    rd 0x0058 = s.lastPad.setWidth 32 ∧ rd 0x005C = (if s.tieUsed then 1 else 0) ∧
    rd 0x0060 = (match s.outq with
      | [] => 0
      | b :: _ => 0x00000100 ||| b.setWidth 32) ∧
    rd 0x0064 = BitVec.ofNat 32 (s.outq.length % 65536)

/-- 10_state.md R38: the fields of STATUS, which a read returns exactly, also while BUSY = 1. -/
def Obligations.StatusFieldsAreExact : Prop :=
  ∀ s : State,
    s.status.getLsbD 0 = s.busy ∧
    s.status.extractLsb' 1 2 = (if s.errCode ≠ .none then 3 else if s.seqPhase = .ready then 1 else 0) ∧
    (s.status.getLsbD 3 = true ↔ s.errCode ≠ .none) ∧
    (s.status.getLsbD 4 = true ↔ s.outq ≠ []) ∧
    (s.status.getLsbD 5 = true ↔ s.outq.length = s.params.outFifoDepth) ∧
    s.status.extractLsb' 6 26 = 0 ∧
    hostRead (regAt 0x0010) s = (s, s.status)

/-- 20_memory.md R90: while BUSY = 1 the registers R90 names read exactly, OUT_DATA pops, and every other offset reads a free value: the next
draw, which nothing constrains.
That the free value is the draw `Config.busyRead` of the counter `draws`, which advances, is the model's choice (notes/assumptions/4.md). -/
def Obligations.BusyReadsAreExactOrFree : Prop :=
  ∀ (s : State) (off : Nat), s.busy = true → off < 0x8000 → off % 4 = 0 →
    (off ∈ [0x0000, 0x0004, 0x0008, 0x000C, 0x0010, 0x0014, 0x0018, 0x0064] →
      hostRead (regAt off) s = (s, s.regValue (regAt off))) ∧
    (off = 0x0060 → hostRead (regAt off) s = (s.popOut, s.regValue .outData)) ∧
    (off ∉ [0x0000, 0x0004, 0x0008, 0x000C, 0x0010, 0x0014, 0x0018, 0x0060, 0x0064] →
      hostRead (regAt off) s = ({ s with draws := s.draws + 1 }, Config.busyRead s.draws))

/-- 20_memory.md R84, R86, 10_state.md R36: a write to CTRL writes TIE alone, at once and also while BUSY = 1; a write anywhere but CTRL and
CMD has no effect; a reserved offset reads 0 (with BUSY = 0). -/
def Obligations.WritesTouchOnlyCtrlAndCmd : Prop :=
  ∀ (s : State) (off : Nat) (v : Word) (p : Pace) (rest : List HostAccess), off < 0x8000 → off % 4 = 0 →
    s.hostq = ⟨.write (s.params.huffBase + off) 4 v, p⟩ :: rest →
    (off = 0x0008 → step s = settle (advance { s with hostq := rest, pace := p, tie := v.getLsbD 0 })) ∧
    (off ≠ 0x0008 → off ≠ 0x000C → step s = settle (advance { s with hostq := rest, pace := p })) ∧
    (s.busy = false →
      (0x0068 ≤ off ∧ off < 0x0400 ∨ 0x0C00 ≤ off ∧ off < 0x1000 ∨ 0x3000 ≤ off ∧ off < 0x4000 ∨ 0x6000 ≤ off) →
      hostRead (regAt off) s = (s, 0))

/-! ### The whole machine -/

/-- The invariant holds after reset, for every legal choice of the open parameters (10_state.md R32). -/
def Obligations.ResetMeetsTheInvariant : Prop :=
  (∀ p : Params, p.wf → (State.resetAt p).Inv) ∧ State.reset.Inv

/-- Every step keeps the invariant (10_state.md R39 to R45): what the core keeps by itself, and with it what READY has built: NNODES, ROOT, the
tree and the codes of the frequency table, MAX_LEN and EXP_BITS (R40, R42). -/
def Obligations.StepKeepsTheInvariant : Prop :=
  (∀ s t : State, s.CoreInv → step s = .next t → t.CoreInv) ∧
  (∀ s t : State, s.Inv → step s = .next t → t.Inv)

/-- 60_exceptions.md R357: none of the internal conditions ever occurs: from a state that meets the invariant no step faults.
The model's own bound on the walk is among them (notes/assumptions/7.md). -/
def Obligations.NoInternalFaultOccurs : Prop :=
  ∀ (s : State) (f : Fault), s.CoreInv → step s ≠ .fault f

/-- 10_state.md R33: SEQ_PHASE changes in only three ways: BUILD sets it to READY, CLEAR and reset set it to COLLECT. -/
def Obligations.PhaseChangesInThreeWays : Prop :=
  ∀ s t : State, step s = .next t → t.seqPhase ≠ s.seqPhase →
    (t.seqPhase = .ready ∧ (s.flight = .build ∨
      ∃ p rest, s.hostq = ⟨.write (s.params.huffBase + 0x000C) 4 0x00000003, p⟩ :: rest)) ∨
    (t.seqPhase = .collect ∧ s.EndsSession)

/-- 43_codegen.md R247, 40_frequency.md R163, 42_tree.md R218: in READY no step changes the frequency table, the tree or the code table, except one
that ends the session. -/
def Obligations.TablesAreReadOnlyInReady : Prop :=
  ∀ s t : State, s.flightFits = true → s.seqPhase = .ready → step s = .next t →
    s.EndsSession ∨
    (t.freq = s.freq ∧ t.nsym = s.nsym ∧ t.totalLen = s.totalLen ∧ t.node = s.node ∧ t.nnodes = s.nnodes ∧ t.root = s.root ∧
      t.codeLen = s.codeLen ∧ t.codeVal = s.codeVal ∧ t.maxLen = s.maxLen ∧ t.expBits = s.expBits ∧ t.tieUsed = s.tieUsed)

/-- 44_bitpacker.md R269: bytes enter OUTQ in emission order and are never lost or reordered: whatever step is taken, what the host has
popped, in all or in the session, followed by OUTQ, only grows at its end, except that CLEAR and reset empty OUTQ and begin a session; and the
open parameters never change. That the host keeps a byte it pops with an explicit read of OUT_DATA in HOSTOUT, as it does those of WAIT and
DRAIN, is the model's choice (notes/assumptions/10.md). -/
def Obligations.OutputBytesAreNeverLost : Prop :=
  ∀ s t : State, step s = .next t →
    t.params = s.params ∧
    ((∃ bs, t.hostOut ++ t.outq = s.hostOut ++ s.outq ++ bs ∧ t.sessionOut ++ t.outq = s.sessionOut ++ s.outq ++ bs) ∨
      (s.EndsSession ∧ t.outq = [] ∧ t.sessionOut = [] ∧ t.hostOut = s.hostOut))

/-- 20_memory.md R96, 60_exceptions.md R345: however far the core has come with a command when the host looks, the command ends as if it had run at
once: for every command and every pace.
Pace and steps are the model's (notes/assumptions/5.md). -/
def Obligations.PartialProgressEndsTheSame : Prop :=
  ∀ (i : Instr) (s t t' : State) (k : Nat),
    exec i { s with pace := .steps k } = .next t → exec i { s with pace := .full } = .next t' →
    coreSteps t.flight.length t = .ok { t' with pace := .steps k }

/-- 60_exceptions.md R356: with BUSY = 0 and no access pending, nothing happens.
The list of accesses is the model's (notes/assumptions/1.md). -/
def Obligations.IdleCoreDoesNothing : Prop :=
  ∀ s : State, s.busy = false → s.hostq = [] → step s = .next s

/-- 46_host_serializer.md R320 to R323: FILE is the header NSYM mod 256, one record for each symbol with nonzero frequency, in ascending order, of
the symbol and its frequency big-endian, and the packed bytes; the host's reads of NSYM and FREQ with BUSY = 0 and its step 3 write the header
and the records, and the bytes popped in the session are appended.
The serializer is host software, and its two steps and what they take are the model's (notes/assumptions/16.md). -/
def Obligations.FileHasHeaderRecordsAndStream : Prop :=
  (∀ (s : State) (packed : List Byte), s.FreqInv →
    (fileOf s.nsym s.freq packed).length = 1 + 5 * s.nsym.toNat + packed.length ∧
    (fileOf s.nsym s.freq packed).head? = some (BitVec.ofNat 8 (s.nsym.toNat % 256)) ∧
    (fileOf s.nsym s.freq packed).drop (1 + 5 * s.nsym.toNat) = packed ∧
    (fileOf s.nsym s.freq packed).drop 1 =
      ((List.range 256).filter (fun k => decide (s.freqAt (BitVec.ofNat 8 k) ≠ 0))).flatMap (fun k =>
        [BitVec.ofNat 8 k, (s.freqAt (BitVec.ofNat 8 k)).extractLsb' 24 8, (s.freqAt (BitVec.ofNat 8 k)).extractLsb' 16 8,
          (s.freqAt (BitVec.ofNat 8 k)).extractLsb' 8 8, (s.freqAt (BitVec.ofNat 8 k)).extractLsb' 0 8]) ++ packed) ∧
  (∀ (s : State) (paces : List Pace) (rest : List HostAccess), s.busy = false →
    s.hostq = scriptAccesses s.params (tableReads ++ [.writeHeader]) paces ++ rest →
    ∃ t, Host.Core.run core 258 s = .next t ∧ t.file = fileOf s.nsym s.freq [] ∧
      t = { s with hostq := rest, pace := t.pace, hostRd := s.hostRd ++ s.nsym.setWidth 32 :: s.freq.entries, file := t.file }) ∧
  (∀ (s : State) (p : Pace) (rest : List HostAccess), s.hostq = ⟨.writePacked, p⟩ :: rest →
    step s = settle (advance { s with hostq := rest, pace := p, file := s.file ++ s.sessionOut }))
end

