-- ==== Sys2Proof/Laws/State.lean ====
section
/-! SUPPORT. One lemma per field for every named update of the state, so that no later proof unfolds a record update. -/

namespace Sys2Proof.Machine

/-! `State.raise` (60_exceptions.md R343). -/

@[simp] theorem State.raise_params (c : ErrCode) (w : Word) (s : State) : (s.raise c w).params = s.params := rfl
@[simp] theorem State.raise_tie (c : ErrCode) (w : Word) (s : State) : (s.raise c w).tie = s.tie := rfl
@[simp] theorem State.raise_tieUsed (c : ErrCode) (w : Word) (s : State) : (s.raise c w).tieUsed = s.tieUsed := rfl
@[simp] theorem State.raise_seqPhase (c : ErrCode) (w : Word) (s : State) : (s.raise c w).seqPhase = s.seqPhase := rfl
@[simp] theorem State.raise_flight (c : ErrCode) (w : Word) (s : State) : (s.raise c w).flight = s.flight := rfl
@[simp] theorem State.raise_errCode (c : ErrCode) (w : Word) (s : State) : (s.raise c w).errCode = c := rfl
@[simp] theorem State.raise_errCmd (c : ErrCode) (w : Word) (s : State) : (s.raise c w).errCmd = w := rfl
@[simp] theorem State.raise_freq (c : ErrCode) (w : Word) (s : State) : (s.raise c w).freq = s.freq := rfl
@[simp] theorem State.raise_totalLen (c : ErrCode) (w : Word) (s : State) : (s.raise c w).totalLen = s.totalLen := rfl
@[simp] theorem State.raise_nsym (c : ErrCode) (w : Word) (s : State) : (s.raise c w).nsym = s.nsym := rfl
@[simp] theorem State.raise_node (c : ErrCode) (w : Word) (s : State) : (s.raise c w).node = s.node := rfl
@[simp] theorem State.raise_nnodes (c : ErrCode) (w : Word) (s : State) : (s.raise c w).nnodes = s.nnodes := rfl
@[simp] theorem State.raise_root (c : ErrCode) (w : Word) (s : State) : (s.raise c w).root = s.root := rfl
@[simp] theorem State.raise_heap (c : ErrCode) (w : Word) (s : State) : (s.raise c w).heap = s.heap := rfl
@[simp] theorem State.raise_codeLen (c : ErrCode) (w : Word) (s : State) : (s.raise c w).codeLen = s.codeLen := rfl
@[simp] theorem State.raise_codeVal (c : ErrCode) (w : Word) (s : State) : (s.raise c w).codeVal = s.codeVal := rfl
@[simp] theorem State.raise_maxLen (c : ErrCode) (w : Word) (s : State) : (s.raise c w).maxLen = s.maxLen := rfl
@[simp] theorem State.raise_expBits (c : ErrCode) (w : Word) (s : State) : (s.raise c w).expBits = s.expBits := rfl
@[simp] theorem State.raise_acc (c : ErrCode) (w : Word) (s : State) : (s.raise c w).acc = s.acc := rfl
@[simp] theorem State.raise_bitcnt (c : ErrCode) (w : Word) (s : State) : (s.raise c w).bitcnt = s.bitcnt := rfl
@[simp] theorem State.raise_lastPad (c : ErrCode) (w : Word) (s : State) : (s.raise c w).lastPad = s.lastPad := rfl
@[simp] theorem State.raise_dataBits (c : ErrCode) (w : Word) (s : State) : (s.raise c w).dataBits = s.dataBits := rfl
@[simp] theorem State.raise_outBytes (c : ErrCode) (w : Word) (s : State) : (s.raise c w).outBytes = s.outBytes := rfl
@[simp] theorem State.raise_encCount (c : ErrCode) (w : Word) (s : State) : (s.raise c w).encCount = s.encCount := rfl
@[simp] theorem State.raise_outq (c : ErrCode) (w : Word) (s : State) : (s.raise c w).outq = s.outq := rfl
@[simp] theorem State.raise_hostq (c : ErrCode) (w : Word) (s : State) : (s.raise c w).hostq = s.hostq := rfl
@[simp] theorem State.raise_pace (c : ErrCode) (w : Word) (s : State) : (s.raise c w).pace = s.pace := rfl
@[simp] theorem State.raise_hostRd (c : ErrCode) (w : Word) (s : State) : (s.raise c w).hostRd = s.hostRd := rfl
@[simp] theorem State.raise_hostOut (c : ErrCode) (w : Word) (s : State) : (s.raise c w).hostOut = s.hostOut := rfl
@[simp] theorem State.raise_sessionOut (c : ErrCode) (w : Word) (s : State) : (s.raise c w).sessionOut = s.sessionOut := rfl
@[simp] theorem State.raise_file (c : ErrCode) (w : Word) (s : State) : (s.raise c w).file = s.file := rfl
@[simp] theorem State.raise_draws (c : ErrCode) (w : Word) (s : State) : (s.raise c w).draws = s.draws := rfl

/-! `State.clear` (45_control.md R303). -/

@[simp] theorem State.clear_params (s : State) : (s.clear).params = s.params := rfl
@[simp] theorem State.clear_tie (s : State) : (s.clear).tie = s.tie := rfl
@[simp] theorem State.clear_tieUsed (s : State) : (s.clear).tieUsed = false := rfl
@[simp] theorem State.clear_seqPhase (s : State) : (s.clear).seqPhase = .collect := rfl
@[simp] theorem State.clear_flight (s : State) : (s.clear).flight = .idle := rfl
@[simp] theorem State.clear_errCode (s : State) : (s.clear).errCode = .none := rfl
@[simp] theorem State.clear_errCmd (s : State) : (s.clear).errCmd = 0 := rfl
@[simp] theorem State.clear_freq (s : State) : (s.clear).freq = .fill 0 := rfl
@[simp] theorem State.clear_totalLen (s : State) : (s.clear).totalLen = 0 := rfl
@[simp] theorem State.clear_nsym (s : State) : (s.clear).nsym = 0 := rfl
@[simp] theorem State.clear_node (s : State) : (s.clear).node = .fill Node.zero := rfl
@[simp] theorem State.clear_nnodes (s : State) : (s.clear).nnodes = 0 := rfl
@[simp] theorem State.clear_root (s : State) : (s.clear).root = 0 := rfl
@[simp] theorem State.clear_heap (s : State) : (s.clear).heap = ⟨s.heap.slot, 0⟩ := rfl
@[simp] theorem State.clear_codeLen (s : State) : (s.clear).codeLen = .fill 0 := rfl
@[simp] theorem State.clear_codeVal (s : State) : (s.clear).codeVal = .fill 0 := rfl
@[simp] theorem State.clear_maxLen (s : State) : (s.clear).maxLen = 0 := rfl
@[simp] theorem State.clear_expBits (s : State) : (s.clear).expBits = 0 := rfl
@[simp] theorem State.clear_acc (s : State) : (s.clear).acc = 0 := rfl
@[simp] theorem State.clear_bitcnt (s : State) : (s.clear).bitcnt = 0 := rfl
@[simp] theorem State.clear_lastPad (s : State) : (s.clear).lastPad = 0 := rfl
@[simp] theorem State.clear_dataBits (s : State) : (s.clear).dataBits = 0 := rfl
@[simp] theorem State.clear_outBytes (s : State) : (s.clear).outBytes = 0 := rfl
@[simp] theorem State.clear_encCount (s : State) : (s.clear).encCount = 0 := rfl
@[simp] theorem State.clear_outq (s : State) : (s.clear).outq = [] := rfl
@[simp] theorem State.clear_hostq (s : State) : (s.clear).hostq = s.hostq := rfl
@[simp] theorem State.clear_pace (s : State) : (s.clear).pace = s.pace := rfl
@[simp] theorem State.clear_hostRd (s : State) : (s.clear).hostRd = s.hostRd := rfl
@[simp] theorem State.clear_hostOut (s : State) : (s.clear).hostOut = s.hostOut := rfl
@[simp] theorem State.clear_sessionOut (s : State) : (s.clear).sessionOut = [] := rfl
@[simp] theorem State.clear_file (s : State) : (s.clear).file = s.file := rfl
@[simp] theorem State.clear_draws (s : State) : (s.clear).draws = s.draws := rfl

/-! `State.resetEvent` (70_reset_and_hazards.md R380). -/

@[simp] theorem State.resetEvent_params (s : State) : (s.resetEvent).params = s.params := rfl
@[simp] theorem State.resetEvent_tie (s : State) : (s.resetEvent).tie = false := rfl
@[simp] theorem State.resetEvent_tieUsed (s : State) : (s.resetEvent).tieUsed = false := rfl
@[simp] theorem State.resetEvent_seqPhase (s : State) : (s.resetEvent).seqPhase = .collect := rfl
@[simp] theorem State.resetEvent_flight (s : State) : (s.resetEvent).flight = .idle := rfl
@[simp] theorem State.resetEvent_errCode (s : State) : (s.resetEvent).errCode = .none := rfl
@[simp] theorem State.resetEvent_errCmd (s : State) : (s.resetEvent).errCmd = 0 := rfl
@[simp] theorem State.resetEvent_freq (s : State) : (s.resetEvent).freq = .fill 0 := rfl
@[simp] theorem State.resetEvent_totalLen (s : State) : (s.resetEvent).totalLen = 0 := rfl
@[simp] theorem State.resetEvent_nsym (s : State) : (s.resetEvent).nsym = 0 := rfl
@[simp] theorem State.resetEvent_node (s : State) : (s.resetEvent).node = .fill Node.zero := rfl
@[simp] theorem State.resetEvent_nnodes (s : State) : (s.resetEvent).nnodes = 0 := rfl
@[simp] theorem State.resetEvent_root (s : State) : (s.resetEvent).root = 0 := rfl
@[simp] theorem State.resetEvent_heap (s : State) : (s.resetEvent).heap = ⟨s.heap.slot, 0⟩ := rfl
@[simp] theorem State.resetEvent_codeLen (s : State) : (s.resetEvent).codeLen = .fill 0 := rfl
@[simp] theorem State.resetEvent_codeVal (s : State) : (s.resetEvent).codeVal = .fill 0 := rfl
@[simp] theorem State.resetEvent_maxLen (s : State) : (s.resetEvent).maxLen = 0 := rfl
@[simp] theorem State.resetEvent_expBits (s : State) : (s.resetEvent).expBits = 0 := rfl
@[simp] theorem State.resetEvent_acc (s : State) : (s.resetEvent).acc = 0 := rfl
@[simp] theorem State.resetEvent_bitcnt (s : State) : (s.resetEvent).bitcnt = 0 := rfl
@[simp] theorem State.resetEvent_lastPad (s : State) : (s.resetEvent).lastPad = 0 := rfl
@[simp] theorem State.resetEvent_dataBits (s : State) : (s.resetEvent).dataBits = 0 := rfl
@[simp] theorem State.resetEvent_outBytes (s : State) : (s.resetEvent).outBytes = 0 := rfl
@[simp] theorem State.resetEvent_encCount (s : State) : (s.resetEvent).encCount = 0 := rfl
@[simp] theorem State.resetEvent_outq (s : State) : (s.resetEvent).outq = [] := rfl
@[simp] theorem State.resetEvent_hostq (s : State) : (s.resetEvent).hostq = s.hostq := rfl
@[simp] theorem State.resetEvent_pace (s : State) : (s.resetEvent).pace = s.pace := rfl
@[simp] theorem State.resetEvent_hostRd (s : State) : (s.resetEvent).hostRd = s.hostRd := rfl
@[simp] theorem State.resetEvent_hostOut (s : State) : (s.resetEvent).hostOut = s.hostOut := rfl
@[simp] theorem State.resetEvent_sessionOut (s : State) : (s.resetEvent).sessionOut = [] := rfl
@[simp] theorem State.resetEvent_file (s : State) : (s.resetEvent).file = s.file := rfl
@[simp] theorem State.resetEvent_draws (s : State) : (s.resetEvent).draws = s.draws := rfl

/-! `State.emit` (44_bitpacker.md R269). -/

@[simp] theorem State.emit_params (b : Byte) (s : State) : (s.emit b).params = s.params := rfl
@[simp] theorem State.emit_tie (b : Byte) (s : State) : (s.emit b).tie = s.tie := rfl
@[simp] theorem State.emit_tieUsed (b : Byte) (s : State) : (s.emit b).tieUsed = s.tieUsed := rfl
@[simp] theorem State.emit_seqPhase (b : Byte) (s : State) : (s.emit b).seqPhase = s.seqPhase := rfl
@[simp] theorem State.emit_flight (b : Byte) (s : State) : (s.emit b).flight = s.flight := rfl
@[simp] theorem State.emit_errCode (b : Byte) (s : State) : (s.emit b).errCode = s.errCode := rfl
@[simp] theorem State.emit_errCmd (b : Byte) (s : State) : (s.emit b).errCmd = s.errCmd := rfl
@[simp] theorem State.emit_freq (b : Byte) (s : State) : (s.emit b).freq = s.freq := rfl
@[simp] theorem State.emit_totalLen (b : Byte) (s : State) : (s.emit b).totalLen = s.totalLen := rfl
@[simp] theorem State.emit_nsym (b : Byte) (s : State) : (s.emit b).nsym = s.nsym := rfl
@[simp] theorem State.emit_node (b : Byte) (s : State) : (s.emit b).node = s.node := rfl
@[simp] theorem State.emit_nnodes (b : Byte) (s : State) : (s.emit b).nnodes = s.nnodes := rfl
@[simp] theorem State.emit_root (b : Byte) (s : State) : (s.emit b).root = s.root := rfl
@[simp] theorem State.emit_heap (b : Byte) (s : State) : (s.emit b).heap = s.heap := rfl
@[simp] theorem State.emit_codeLen (b : Byte) (s : State) : (s.emit b).codeLen = s.codeLen := rfl
@[simp] theorem State.emit_codeVal (b : Byte) (s : State) : (s.emit b).codeVal = s.codeVal := rfl
@[simp] theorem State.emit_maxLen (b : Byte) (s : State) : (s.emit b).maxLen = s.maxLen := rfl
@[simp] theorem State.emit_expBits (b : Byte) (s : State) : (s.emit b).expBits = s.expBits := rfl
@[simp] theorem State.emit_acc (b : Byte) (s : State) : (s.emit b).acc = s.acc := rfl
@[simp] theorem State.emit_bitcnt (b : Byte) (s : State) : (s.emit b).bitcnt = s.bitcnt := rfl
@[simp] theorem State.emit_lastPad (b : Byte) (s : State) : (s.emit b).lastPad = s.lastPad := rfl
@[simp] theorem State.emit_dataBits (b : Byte) (s : State) : (s.emit b).dataBits = s.dataBits := rfl
@[simp] theorem State.emit_outBytes (b : Byte) (s : State) : (s.emit b).outBytes = s.outBytes + 1 := rfl
@[simp] theorem State.emit_encCount (b : Byte) (s : State) : (s.emit b).encCount = s.encCount := rfl
@[simp] theorem State.emit_outq (b : Byte) (s : State) : (s.emit b).outq = s.outq ++ [b] := rfl
@[simp] theorem State.emit_hostq (b : Byte) (s : State) : (s.emit b).hostq = s.hostq := rfl
@[simp] theorem State.emit_pace (b : Byte) (s : State) : (s.emit b).pace = s.pace := rfl
@[simp] theorem State.emit_hostRd (b : Byte) (s : State) : (s.emit b).hostRd = s.hostRd := rfl
@[simp] theorem State.emit_hostOut (b : Byte) (s : State) : (s.emit b).hostOut = s.hostOut := rfl
@[simp] theorem State.emit_sessionOut (b : Byte) (s : State) : (s.emit b).sessionOut = s.sessionOut := rfl
@[simp] theorem State.emit_file (b : Byte) (s : State) : (s.emit b).file = s.file := rfl
@[simp] theorem State.emit_draws (b : Byte) (s : State) : (s.emit b).draws = s.draws := rfl

/-! `State.countByte` (40_frequency.md R160). -/

@[simp] theorem State.countByte_params (b : Byte) (s : State) : (s.countByte b).params = s.params := rfl
@[simp] theorem State.countByte_tie (b : Byte) (s : State) : (s.countByte b).tie = s.tie := rfl
@[simp] theorem State.countByte_tieUsed (b : Byte) (s : State) : (s.countByte b).tieUsed = s.tieUsed := rfl
@[simp] theorem State.countByte_seqPhase (b : Byte) (s : State) : (s.countByte b).seqPhase = s.seqPhase := rfl
@[simp] theorem State.countByte_flight (b : Byte) (s : State) : (s.countByte b).flight = s.flight := rfl
@[simp] theorem State.countByte_errCode (b : Byte) (s : State) : (s.countByte b).errCode = s.errCode := rfl
@[simp] theorem State.countByte_errCmd (b : Byte) (s : State) : (s.countByte b).errCmd = s.errCmd := rfl
@[simp] theorem State.countByte_freq (b : Byte) (s : State) : (s.countByte b).freq = s.freq.write b.toNat (s.freqAt b + 1) := rfl
@[simp] theorem State.countByte_totalLen (b : Byte) (s : State) : (s.countByte b).totalLen = s.totalLen + 1 := rfl
@[simp] theorem State.countByte_nsym (b : Byte) (s : State) : (s.countByte b).nsym = if s.freqAt b = 0 then s.nsym + 1 else s.nsym := rfl
@[simp] theorem State.countByte_node (b : Byte) (s : State) : (s.countByte b).node = s.node := rfl
@[simp] theorem State.countByte_nnodes (b : Byte) (s : State) : (s.countByte b).nnodes = s.nnodes := rfl
@[simp] theorem State.countByte_root (b : Byte) (s : State) : (s.countByte b).root = s.root := rfl
@[simp] theorem State.countByte_heap (b : Byte) (s : State) : (s.countByte b).heap = s.heap := rfl
@[simp] theorem State.countByte_codeLen (b : Byte) (s : State) : (s.countByte b).codeLen = s.codeLen := rfl
@[simp] theorem State.countByte_codeVal (b : Byte) (s : State) : (s.countByte b).codeVal = s.codeVal := rfl
@[simp] theorem State.countByte_maxLen (b : Byte) (s : State) : (s.countByte b).maxLen = s.maxLen := rfl
@[simp] theorem State.countByte_expBits (b : Byte) (s : State) : (s.countByte b).expBits = s.expBits := rfl
@[simp] theorem State.countByte_acc (b : Byte) (s : State) : (s.countByte b).acc = s.acc := rfl
@[simp] theorem State.countByte_bitcnt (b : Byte) (s : State) : (s.countByte b).bitcnt = s.bitcnt := rfl
@[simp] theorem State.countByte_lastPad (b : Byte) (s : State) : (s.countByte b).lastPad = s.lastPad := rfl
@[simp] theorem State.countByte_dataBits (b : Byte) (s : State) : (s.countByte b).dataBits = s.dataBits := rfl
@[simp] theorem State.countByte_outBytes (b : Byte) (s : State) : (s.countByte b).outBytes = s.outBytes := rfl
@[simp] theorem State.countByte_encCount (b : Byte) (s : State) : (s.countByte b).encCount = s.encCount := rfl
@[simp] theorem State.countByte_outq (b : Byte) (s : State) : (s.countByte b).outq = s.outq := rfl
@[simp] theorem State.countByte_hostq (b : Byte) (s : State) : (s.countByte b).hostq = s.hostq := rfl
@[simp] theorem State.countByte_pace (b : Byte) (s : State) : (s.countByte b).pace = s.pace := rfl
@[simp] theorem State.countByte_hostRd (b : Byte) (s : State) : (s.countByte b).hostRd = s.hostRd := rfl
@[simp] theorem State.countByte_hostOut (b : Byte) (s : State) : (s.countByte b).hostOut = s.hostOut := rfl
@[simp] theorem State.countByte_sessionOut (b : Byte) (s : State) : (s.countByte b).sessionOut = s.sessionOut := rfl
@[simp] theorem State.countByte_file (b : Byte) (s : State) : (s.countByte b).file = s.file := rfl
@[simp] theorem State.countByte_draws (b : Byte) (s : State) : (s.countByte b).draws = s.draws := rfl

/-! `State.finishWrite` (44_bitpacker.md R261, R263). -/

@[simp] theorem State.finishWrite_params (n : Nat) (e : Bool) (s : State) : (s.finishWrite n e).params = s.params := rfl
@[simp] theorem State.finishWrite_tie (n : Nat) (e : Bool) (s : State) : (s.finishWrite n e).tie = s.tie := rfl
@[simp] theorem State.finishWrite_tieUsed (n : Nat) (e : Bool) (s : State) : (s.finishWrite n e).tieUsed = s.tieUsed := rfl
@[simp] theorem State.finishWrite_seqPhase (n : Nat) (e : Bool) (s : State) : (s.finishWrite n e).seqPhase = s.seqPhase := rfl
@[simp] theorem State.finishWrite_flight (n : Nat) (e : Bool) (s : State) : (s.finishWrite n e).flight = s.flight := rfl
@[simp] theorem State.finishWrite_errCode (n : Nat) (e : Bool) (s : State) : (s.finishWrite n e).errCode = s.errCode := rfl
@[simp] theorem State.finishWrite_errCmd (n : Nat) (e : Bool) (s : State) : (s.finishWrite n e).errCmd = s.errCmd := rfl
@[simp] theorem State.finishWrite_freq (n : Nat) (e : Bool) (s : State) : (s.finishWrite n e).freq = s.freq := rfl
@[simp] theorem State.finishWrite_totalLen (n : Nat) (e : Bool) (s : State) : (s.finishWrite n e).totalLen = s.totalLen := rfl
@[simp] theorem State.finishWrite_nsym (n : Nat) (e : Bool) (s : State) : (s.finishWrite n e).nsym = s.nsym := rfl
@[simp] theorem State.finishWrite_node (n : Nat) (e : Bool) (s : State) : (s.finishWrite n e).node = s.node := rfl
@[simp] theorem State.finishWrite_nnodes (n : Nat) (e : Bool) (s : State) : (s.finishWrite n e).nnodes = s.nnodes := rfl
@[simp] theorem State.finishWrite_root (n : Nat) (e : Bool) (s : State) : (s.finishWrite n e).root = s.root := rfl
@[simp] theorem State.finishWrite_heap (n : Nat) (e : Bool) (s : State) : (s.finishWrite n e).heap = s.heap := rfl
@[simp] theorem State.finishWrite_codeLen (n : Nat) (e : Bool) (s : State) : (s.finishWrite n e).codeLen = s.codeLen := rfl
@[simp] theorem State.finishWrite_codeVal (n : Nat) (e : Bool) (s : State) : (s.finishWrite n e).codeVal = s.codeVal := rfl
@[simp] theorem State.finishWrite_maxLen (n : Nat) (e : Bool) (s : State) : (s.finishWrite n e).maxLen = s.maxLen := rfl
@[simp] theorem State.finishWrite_expBits (n : Nat) (e : Bool) (s : State) : (s.finishWrite n e).expBits = s.expBits := rfl
@[simp] theorem State.finishWrite_acc (n : Nat) (e : Bool) (s : State) : (s.finishWrite n e).acc = s.acc := rfl
@[simp] theorem State.finishWrite_bitcnt (n : Nat) (e : Bool) (s : State) : (s.finishWrite n e).bitcnt = s.bitcnt := rfl
@[simp] theorem State.finishWrite_lastPad (n : Nat) (e : Bool) (s : State) : (s.finishWrite n e).lastPad = s.lastPad := rfl
@[simp] theorem State.finishWrite_dataBits (n : Nat) (e : Bool) (s : State) : (s.finishWrite n e).dataBits = s.dataBits + BitVec.ofNat 64 n := rfl
@[simp] theorem State.finishWrite_outBytes (n : Nat) (e : Bool) (s : State) : (s.finishWrite n e).outBytes = s.outBytes := rfl
@[simp] theorem State.finishWrite_encCount (n : Nat) (e : Bool) (s : State) : (s.finishWrite n e).encCount = if e then s.encCount + 1 else s.encCount := rfl
@[simp] theorem State.finishWrite_outq (n : Nat) (e : Bool) (s : State) : (s.finishWrite n e).outq = s.outq := rfl
@[simp] theorem State.finishWrite_hostq (n : Nat) (e : Bool) (s : State) : (s.finishWrite n e).hostq = s.hostq := rfl
@[simp] theorem State.finishWrite_pace (n : Nat) (e : Bool) (s : State) : (s.finishWrite n e).pace = s.pace := rfl
@[simp] theorem State.finishWrite_hostRd (n : Nat) (e : Bool) (s : State) : (s.finishWrite n e).hostRd = s.hostRd := rfl
@[simp] theorem State.finishWrite_hostOut (n : Nat) (e : Bool) (s : State) : (s.finishWrite n e).hostOut = s.hostOut := rfl
@[simp] theorem State.finishWrite_sessionOut (n : Nat) (e : Bool) (s : State) : (s.finishWrite n e).sessionOut = s.sessionOut := rfl
@[simp] theorem State.finishWrite_file (n : Nat) (e : Bool) (s : State) : (s.finishWrite n e).file = s.file := rfl
@[simp] theorem State.finishWrite_draws (n : Nat) (e : Bool) (s : State) : (s.finishWrite n e).draws = s.draws := rfl

/-! `State.popOut` (20_memory.md R88): what it leaves unchanged. -/

@[simp] theorem State.popOut_params (s : State) : (s.popOut).params = s.params := by unfold State.popOut; split <;> rfl
@[simp] theorem State.popOut_tie (s : State) : (s.popOut).tie = s.tie := by unfold State.popOut; split <;> rfl
@[simp] theorem State.popOut_tieUsed (s : State) : (s.popOut).tieUsed = s.tieUsed := by unfold State.popOut; split <;> rfl
@[simp] theorem State.popOut_seqPhase (s : State) : (s.popOut).seqPhase = s.seqPhase := by unfold State.popOut; split <;> rfl
@[simp] theorem State.popOut_flight (s : State) : (s.popOut).flight = s.flight := by unfold State.popOut; split <;> rfl
@[simp] theorem State.popOut_errCode (s : State) : (s.popOut).errCode = s.errCode := by unfold State.popOut; split <;> rfl
@[simp] theorem State.popOut_errCmd (s : State) : (s.popOut).errCmd = s.errCmd := by unfold State.popOut; split <;> rfl
@[simp] theorem State.popOut_freq (s : State) : (s.popOut).freq = s.freq := by unfold State.popOut; split <;> rfl
@[simp] theorem State.popOut_totalLen (s : State) : (s.popOut).totalLen = s.totalLen := by unfold State.popOut; split <;> rfl
@[simp] theorem State.popOut_nsym (s : State) : (s.popOut).nsym = s.nsym := by unfold State.popOut; split <;> rfl
@[simp] theorem State.popOut_node (s : State) : (s.popOut).node = s.node := by unfold State.popOut; split <;> rfl
@[simp] theorem State.popOut_nnodes (s : State) : (s.popOut).nnodes = s.nnodes := by unfold State.popOut; split <;> rfl
@[simp] theorem State.popOut_root (s : State) : (s.popOut).root = s.root := by unfold State.popOut; split <;> rfl
@[simp] theorem State.popOut_heap (s : State) : (s.popOut).heap = s.heap := by unfold State.popOut; split <;> rfl
@[simp] theorem State.popOut_codeLen (s : State) : (s.popOut).codeLen = s.codeLen := by unfold State.popOut; split <;> rfl
@[simp] theorem State.popOut_codeVal (s : State) : (s.popOut).codeVal = s.codeVal := by unfold State.popOut; split <;> rfl
@[simp] theorem State.popOut_maxLen (s : State) : (s.popOut).maxLen = s.maxLen := by unfold State.popOut; split <;> rfl
@[simp] theorem State.popOut_expBits (s : State) : (s.popOut).expBits = s.expBits := by unfold State.popOut; split <;> rfl
@[simp] theorem State.popOut_acc (s : State) : (s.popOut).acc = s.acc := by unfold State.popOut; split <;> rfl
@[simp] theorem State.popOut_bitcnt (s : State) : (s.popOut).bitcnt = s.bitcnt := by unfold State.popOut; split <;> rfl
@[simp] theorem State.popOut_lastPad (s : State) : (s.popOut).lastPad = s.lastPad := by unfold State.popOut; split <;> rfl
@[simp] theorem State.popOut_dataBits (s : State) : (s.popOut).dataBits = s.dataBits := by unfold State.popOut; split <;> rfl
@[simp] theorem State.popOut_outBytes (s : State) : (s.popOut).outBytes = s.outBytes := by unfold State.popOut; split <;> rfl
@[simp] theorem State.popOut_encCount (s : State) : (s.popOut).encCount = s.encCount := by unfold State.popOut; split <;> rfl
@[simp] theorem State.popOut_hostq (s : State) : (s.popOut).hostq = s.hostq := by unfold State.popOut; split <;> rfl
@[simp] theorem State.popOut_pace (s : State) : (s.popOut).pace = s.pace := by unfold State.popOut; split <;> rfl
@[simp] theorem State.popOut_hostRd (s : State) : (s.popOut).hostRd = s.hostRd := by unfold State.popOut; split <;> rfl
@[simp] theorem State.popOut_file (s : State) : (s.popOut).file = s.file := by unfold State.popOut; split <;> rfl
@[simp] theorem State.popOut_draws (s : State) : (s.popOut).draws = s.draws := by unfold State.popOut; split <;> rfl

theorem State.popOut_nil {s : State} (h : s.outq = []) : s.popOut = s := by
  unfold State.popOut; rw [h]

theorem State.popOut_cons {s : State} {b : Byte} {q : List Byte} (h : s.outq = b :: q) :
    s.popOut = { s with outq := q, hostOut := s.hostOut ++ [b], sessionOut := s.sessionOut ++ [b] } := by
  unfold State.popOut; rw [h]

/-- A pop moves a byte from OUTQ to HOSTOUT: the two together stay as they are. -/
@[simp] theorem State.popOut_output (s : State) : s.popOut.hostOut ++ s.popOut.outq = s.hostOut ++ s.outq := by
  unfold State.popOut; split <;> simp [*]

/-- The same of the session's bytes. -/
@[simp] theorem State.popOut_session (s : State) : s.popOut.sessionOut ++ s.popOut.outq = s.sessionOut ++ s.outq := by
  unfold State.popOut; split <;> simp [*]

/-! `State.writeBit` (44_bitpacker.md R260): what it leaves unchanged. -/

@[simp] theorem State.writeBit_params (b : Bool) (s : State) : (s.writeBit b).params = s.params := by unfold State.writeBit; split <;> rfl
@[simp] theorem State.writeBit_tie (b : Bool) (s : State) : (s.writeBit b).tie = s.tie := by unfold State.writeBit; split <;> rfl
@[simp] theorem State.writeBit_tieUsed (b : Bool) (s : State) : (s.writeBit b).tieUsed = s.tieUsed := by unfold State.writeBit; split <;> rfl
@[simp] theorem State.writeBit_seqPhase (b : Bool) (s : State) : (s.writeBit b).seqPhase = s.seqPhase := by unfold State.writeBit; split <;> rfl
@[simp] theorem State.writeBit_flight (b : Bool) (s : State) : (s.writeBit b).flight = s.flight := by unfold State.writeBit; split <;> rfl
@[simp] theorem State.writeBit_errCode (b : Bool) (s : State) : (s.writeBit b).errCode = s.errCode := by unfold State.writeBit; split <;> rfl
@[simp] theorem State.writeBit_errCmd (b : Bool) (s : State) : (s.writeBit b).errCmd = s.errCmd := by unfold State.writeBit; split <;> rfl
@[simp] theorem State.writeBit_freq (b : Bool) (s : State) : (s.writeBit b).freq = s.freq := by unfold State.writeBit; split <;> rfl
@[simp] theorem State.writeBit_totalLen (b : Bool) (s : State) : (s.writeBit b).totalLen = s.totalLen := by unfold State.writeBit; split <;> rfl
@[simp] theorem State.writeBit_nsym (b : Bool) (s : State) : (s.writeBit b).nsym = s.nsym := by unfold State.writeBit; split <;> rfl
@[simp] theorem State.writeBit_node (b : Bool) (s : State) : (s.writeBit b).node = s.node := by unfold State.writeBit; split <;> rfl
@[simp] theorem State.writeBit_nnodes (b : Bool) (s : State) : (s.writeBit b).nnodes = s.nnodes := by unfold State.writeBit; split <;> rfl
@[simp] theorem State.writeBit_root (b : Bool) (s : State) : (s.writeBit b).root = s.root := by unfold State.writeBit; split <;> rfl
@[simp] theorem State.writeBit_heap (b : Bool) (s : State) : (s.writeBit b).heap = s.heap := by unfold State.writeBit; split <;> rfl
@[simp] theorem State.writeBit_codeLen (b : Bool) (s : State) : (s.writeBit b).codeLen = s.codeLen := by unfold State.writeBit; split <;> rfl
@[simp] theorem State.writeBit_codeVal (b : Bool) (s : State) : (s.writeBit b).codeVal = s.codeVal := by unfold State.writeBit; split <;> rfl
@[simp] theorem State.writeBit_maxLen (b : Bool) (s : State) : (s.writeBit b).maxLen = s.maxLen := by unfold State.writeBit; split <;> rfl
@[simp] theorem State.writeBit_expBits (b : Bool) (s : State) : (s.writeBit b).expBits = s.expBits := by unfold State.writeBit; split <;> rfl
@[simp] theorem State.writeBit_lastPad (b : Bool) (s : State) : (s.writeBit b).lastPad = s.lastPad := by unfold State.writeBit; split <;> rfl
@[simp] theorem State.writeBit_dataBits (b : Bool) (s : State) : (s.writeBit b).dataBits = s.dataBits := by unfold State.writeBit; split <;> rfl
@[simp] theorem State.writeBit_encCount (b : Bool) (s : State) : (s.writeBit b).encCount = s.encCount := by unfold State.writeBit; split <;> rfl
@[simp] theorem State.writeBit_hostq (b : Bool) (s : State) : (s.writeBit b).hostq = s.hostq := by unfold State.writeBit; split <;> rfl
@[simp] theorem State.writeBit_pace (b : Bool) (s : State) : (s.writeBit b).pace = s.pace := by unfold State.writeBit; split <;> rfl
@[simp] theorem State.writeBit_hostRd (b : Bool) (s : State) : (s.writeBit b).hostRd = s.hostRd := by unfold State.writeBit; split <;> rfl
@[simp] theorem State.writeBit_hostOut (b : Bool) (s : State) : (s.writeBit b).hostOut = s.hostOut := by unfold State.writeBit; split <;> rfl
@[simp] theorem State.writeBit_sessionOut (b : Bool) (s : State) : (s.writeBit b).sessionOut = s.sessionOut := by unfold State.writeBit; split <;> rfl
@[simp] theorem State.writeBit_file (b : Bool) (s : State) : (s.writeBit b).file = s.file := by unfold State.writeBit; split <;> rfl
@[simp] theorem State.writeBit_draws (b : Bool) (s : State) : (s.writeBit b).draws = s.draws := by unfold State.writeBit; split <;> rfl

/-! `State.flushHeld` (44_bitpacker.md R262): what it leaves unchanged, and that it leaves no bit held. -/

@[simp] theorem State.flushHeld_params (s : State) : (s.flushHeld).params = s.params := by unfold State.flushHeld; split <;> rfl
@[simp] theorem State.flushHeld_tie (s : State) : (s.flushHeld).tie = s.tie := by unfold State.flushHeld; split <;> rfl
@[simp] theorem State.flushHeld_tieUsed (s : State) : (s.flushHeld).tieUsed = s.tieUsed := by unfold State.flushHeld; split <;> rfl
@[simp] theorem State.flushHeld_seqPhase (s : State) : (s.flushHeld).seqPhase = s.seqPhase := by unfold State.flushHeld; split <;> rfl
@[simp] theorem State.flushHeld_flight (s : State) : (s.flushHeld).flight = s.flight := by unfold State.flushHeld; split <;> rfl
@[simp] theorem State.flushHeld_errCode (s : State) : (s.flushHeld).errCode = s.errCode := by unfold State.flushHeld; split <;> rfl
@[simp] theorem State.flushHeld_errCmd (s : State) : (s.flushHeld).errCmd = s.errCmd := by unfold State.flushHeld; split <;> rfl
@[simp] theorem State.flushHeld_freq (s : State) : (s.flushHeld).freq = s.freq := by unfold State.flushHeld; split <;> rfl
@[simp] theorem State.flushHeld_totalLen (s : State) : (s.flushHeld).totalLen = s.totalLen := by unfold State.flushHeld; split <;> rfl
@[simp] theorem State.flushHeld_nsym (s : State) : (s.flushHeld).nsym = s.nsym := by unfold State.flushHeld; split <;> rfl
@[simp] theorem State.flushHeld_node (s : State) : (s.flushHeld).node = s.node := by unfold State.flushHeld; split <;> rfl
@[simp] theorem State.flushHeld_nnodes (s : State) : (s.flushHeld).nnodes = s.nnodes := by unfold State.flushHeld; split <;> rfl
@[simp] theorem State.flushHeld_root (s : State) : (s.flushHeld).root = s.root := by unfold State.flushHeld; split <;> rfl
@[simp] theorem State.flushHeld_heap (s : State) : (s.flushHeld).heap = s.heap := by unfold State.flushHeld; split <;> rfl
@[simp] theorem State.flushHeld_codeLen (s : State) : (s.flushHeld).codeLen = s.codeLen := by unfold State.flushHeld; split <;> rfl
@[simp] theorem State.flushHeld_codeVal (s : State) : (s.flushHeld).codeVal = s.codeVal := by unfold State.flushHeld; split <;> rfl
@[simp] theorem State.flushHeld_maxLen (s : State) : (s.flushHeld).maxLen = s.maxLen := by unfold State.flushHeld; split <;> rfl
@[simp] theorem State.flushHeld_expBits (s : State) : (s.flushHeld).expBits = s.expBits := by unfold State.flushHeld; split <;> rfl
@[simp] theorem State.flushHeld_dataBits (s : State) : (s.flushHeld).dataBits = s.dataBits := by unfold State.flushHeld; split <;> rfl
@[simp] theorem State.flushHeld_encCount (s : State) : (s.flushHeld).encCount = s.encCount := by unfold State.flushHeld; split <;> rfl
@[simp] theorem State.flushHeld_hostq (s : State) : (s.flushHeld).hostq = s.hostq := by unfold State.flushHeld; split <;> rfl
@[simp] theorem State.flushHeld_pace (s : State) : (s.flushHeld).pace = s.pace := by unfold State.flushHeld; split <;> rfl
@[simp] theorem State.flushHeld_hostRd (s : State) : (s.flushHeld).hostRd = s.hostRd := by unfold State.flushHeld; split <;> rfl
@[simp] theorem State.flushHeld_hostOut (s : State) : (s.flushHeld).hostOut = s.hostOut := by unfold State.flushHeld; split <;> rfl
@[simp] theorem State.flushHeld_sessionOut (s : State) : (s.flushHeld).sessionOut = s.sessionOut := by unfold State.flushHeld; split <;> rfl
@[simp] theorem State.flushHeld_file (s : State) : (s.flushHeld).file = s.file := by unfold State.flushHeld; split <;> rfl
@[simp] theorem State.flushHeld_draws (s : State) : (s.flushHeld).draws = s.draws := by unfold State.flushHeld; split <;> rfl
@[simp] theorem State.flushHeld_bitcnt (s : State) : s.flushHeld.bitcnt = 0 := by
  unfold State.flushHeld; split <;> simp_all

/-! `State.writeHeader` (46_host_serializer.md R323). -/

@[simp] theorem State.writeHeader_params (s : State) : (s.writeHeader).params = s.params := rfl
@[simp] theorem State.writeHeader_tie (s : State) : (s.writeHeader).tie = s.tie := rfl
@[simp] theorem State.writeHeader_tieUsed (s : State) : (s.writeHeader).tieUsed = s.tieUsed := rfl
@[simp] theorem State.writeHeader_seqPhase (s : State) : (s.writeHeader).seqPhase = s.seqPhase := rfl
@[simp] theorem State.writeHeader_flight (s : State) : (s.writeHeader).flight = s.flight := rfl
@[simp] theorem State.writeHeader_errCode (s : State) : (s.writeHeader).errCode = s.errCode := rfl
@[simp] theorem State.writeHeader_errCmd (s : State) : (s.writeHeader).errCmd = s.errCmd := rfl
@[simp] theorem State.writeHeader_freq (s : State) : (s.writeHeader).freq = s.freq := rfl
@[simp] theorem State.writeHeader_totalLen (s : State) : (s.writeHeader).totalLen = s.totalLen := rfl
@[simp] theorem State.writeHeader_nsym (s : State) : (s.writeHeader).nsym = s.nsym := rfl
@[simp] theorem State.writeHeader_node (s : State) : (s.writeHeader).node = s.node := rfl
@[simp] theorem State.writeHeader_nnodes (s : State) : (s.writeHeader).nnodes = s.nnodes := rfl
@[simp] theorem State.writeHeader_root (s : State) : (s.writeHeader).root = s.root := rfl
@[simp] theorem State.writeHeader_heap (s : State) : (s.writeHeader).heap = s.heap := rfl
@[simp] theorem State.writeHeader_codeLen (s : State) : (s.writeHeader).codeLen = s.codeLen := rfl
@[simp] theorem State.writeHeader_codeVal (s : State) : (s.writeHeader).codeVal = s.codeVal := rfl
@[simp] theorem State.writeHeader_maxLen (s : State) : (s.writeHeader).maxLen = s.maxLen := rfl
@[simp] theorem State.writeHeader_expBits (s : State) : (s.writeHeader).expBits = s.expBits := rfl
@[simp] theorem State.writeHeader_acc (s : State) : (s.writeHeader).acc = s.acc := rfl
@[simp] theorem State.writeHeader_bitcnt (s : State) : (s.writeHeader).bitcnt = s.bitcnt := rfl
@[simp] theorem State.writeHeader_lastPad (s : State) : (s.writeHeader).lastPad = s.lastPad := rfl
@[simp] theorem State.writeHeader_dataBits (s : State) : (s.writeHeader).dataBits = s.dataBits := rfl
@[simp] theorem State.writeHeader_outBytes (s : State) : (s.writeHeader).outBytes = s.outBytes := rfl
@[simp] theorem State.writeHeader_encCount (s : State) : (s.writeHeader).encCount = s.encCount := rfl
@[simp] theorem State.writeHeader_outq (s : State) : (s.writeHeader).outq = s.outq := rfl
@[simp] theorem State.writeHeader_hostq (s : State) : (s.writeHeader).hostq = s.hostq := rfl
@[simp] theorem State.writeHeader_pace (s : State) : (s.writeHeader).pace = s.pace := rfl
@[simp] theorem State.writeHeader_hostRd (s : State) : (s.writeHeader).hostRd = s.hostRd := rfl
@[simp] theorem State.writeHeader_hostOut (s : State) : (s.writeHeader).hostOut = s.hostOut := rfl
@[simp] theorem State.writeHeader_sessionOut (s : State) : (s.writeHeader).sessionOut = s.sessionOut := rfl
@[simp] theorem State.writeHeader_file (s : State) : (s.writeHeader).file = headerBytes (lastReads s.hostRd) := rfl
@[simp] theorem State.writeHeader_draws (s : State) : (s.writeHeader).draws = s.draws := rfl

/-! `State.writePacked` (46_host_serializer.md R321). -/

@[simp] theorem State.writePacked_params (s : State) : (s.writePacked).params = s.params := rfl
@[simp] theorem State.writePacked_tie (s : State) : (s.writePacked).tie = s.tie := rfl
@[simp] theorem State.writePacked_tieUsed (s : State) : (s.writePacked).tieUsed = s.tieUsed := rfl
@[simp] theorem State.writePacked_seqPhase (s : State) : (s.writePacked).seqPhase = s.seqPhase := rfl
@[simp] theorem State.writePacked_flight (s : State) : (s.writePacked).flight = s.flight := rfl
@[simp] theorem State.writePacked_errCode (s : State) : (s.writePacked).errCode = s.errCode := rfl
@[simp] theorem State.writePacked_errCmd (s : State) : (s.writePacked).errCmd = s.errCmd := rfl
@[simp] theorem State.writePacked_freq (s : State) : (s.writePacked).freq = s.freq := rfl
@[simp] theorem State.writePacked_totalLen (s : State) : (s.writePacked).totalLen = s.totalLen := rfl
@[simp] theorem State.writePacked_nsym (s : State) : (s.writePacked).nsym = s.nsym := rfl
@[simp] theorem State.writePacked_node (s : State) : (s.writePacked).node = s.node := rfl
@[simp] theorem State.writePacked_nnodes (s : State) : (s.writePacked).nnodes = s.nnodes := rfl
@[simp] theorem State.writePacked_root (s : State) : (s.writePacked).root = s.root := rfl
@[simp] theorem State.writePacked_heap (s : State) : (s.writePacked).heap = s.heap := rfl
@[simp] theorem State.writePacked_codeLen (s : State) : (s.writePacked).codeLen = s.codeLen := rfl
@[simp] theorem State.writePacked_codeVal (s : State) : (s.writePacked).codeVal = s.codeVal := rfl
@[simp] theorem State.writePacked_maxLen (s : State) : (s.writePacked).maxLen = s.maxLen := rfl
@[simp] theorem State.writePacked_expBits (s : State) : (s.writePacked).expBits = s.expBits := rfl
@[simp] theorem State.writePacked_acc (s : State) : (s.writePacked).acc = s.acc := rfl
@[simp] theorem State.writePacked_bitcnt (s : State) : (s.writePacked).bitcnt = s.bitcnt := rfl
@[simp] theorem State.writePacked_lastPad (s : State) : (s.writePacked).lastPad = s.lastPad := rfl
@[simp] theorem State.writePacked_dataBits (s : State) : (s.writePacked).dataBits = s.dataBits := rfl
@[simp] theorem State.writePacked_outBytes (s : State) : (s.writePacked).outBytes = s.outBytes := rfl
@[simp] theorem State.writePacked_encCount (s : State) : (s.writePacked).encCount = s.encCount := rfl
@[simp] theorem State.writePacked_outq (s : State) : (s.writePacked).outq = s.outq := rfl
@[simp] theorem State.writePacked_hostq (s : State) : (s.writePacked).hostq = s.hostq := rfl
@[simp] theorem State.writePacked_pace (s : State) : (s.writePacked).pace = s.pace := rfl
@[simp] theorem State.writePacked_hostRd (s : State) : (s.writePacked).hostRd = s.hostRd := rfl
@[simp] theorem State.writePacked_hostOut (s : State) : (s.writePacked).hostOut = s.hostOut := rfl
@[simp] theorem State.writePacked_sessionOut (s : State) : (s.writePacked).sessionOut = s.sessionOut := rfl
@[simp] theorem State.writePacked_file (s : State) : (s.writePacked).file = s.file ++ s.sessionOut := rfl
@[simp] theorem State.writePacked_draws (s : State) : (s.writePacked).draws = s.draws := rfl

end Sys2Proof.Machine
end

