-- ==== Sys2Proof/Laws/Progress.lean ====
section
/-! SUPPORT. Everything the core can do with a command in flight, said once, and when a command word reaches its own rule. -/

namespace Sys2Proof.Machine

/-! ### Answers -/

@[simp] theorem settle_ok (s : State) : settle (.ok s) = .next s := rfl

@[simp] theorem settle_error (f : Fault) : settle (.error f) = .fault f := rfl

theorem settle_eq_next {r : Except Fault State} {t : State} : settle r = .next t ↔ r = .ok t := by
  cases r <;> simp [settle]

theorem settle_eq_fault {r : Except Fault State} {f : Fault} : settle r = .fault f ↔ r = .error f := by
  cases r <;> simp [settle]

theorem settle_ne_refused (r : Except Fault State) (x : Refusal) : settle r ≠ .refused x := by
  cases r <;> simp [settle]

/-! ### BUSY -/

theorem State.busy_eq_false {s : State} : s.busy = false ↔ s.flight = .idle := by
  unfold State.busy; split <;> simp_all

theorem State.busy_eq_true {s : State} : s.busy = true ↔ s.flight ≠ .idle := by
  unfold State.busy; split <;> simp_all

theorem Flight.length_eq_zero {f : Flight} : f.length = 0 ↔ f = .idle := by
  cases f <;> simp [Flight.length]

/-! ### One step of the command in flight -/

/-- What `buildCodes` writes: every other field stays (42_tree.md R210). -/
theorem State.buildCodes_frame {s t : State} (h : s.buildCodes = .ok t) :
    t = { s with
      node := t.node, nnodes := t.nnodes, root := t.root, heap := t.heap, codeLen := t.codeLen, codeVal := t.codeVal,
      maxLen := t.maxLen, expBits := t.expBits, seqPhase := .ready } := by
  unfold State.buildCodes at h
  split at h
  · cases h
  · split at h
    · cases h
    · injection h with h
      rw [← h]

theorem coreStep_idle {s : State} (h : s.flight = .idle) : coreStep s = .ok s := by
  unfold coreStep; rw [h]

/-- Every way a step of the core can end in a state. -/
theorem coreStep_cases {s t : State} (h : coreStep s = .ok t) :
    (s.flight = .idle ∧ t = s) ∨
    (∃ b, s.flight = .count b ∧ t = { s.countByte b with flight := .idle }) ∨
    (∃ u, s.flight = .build ∧ s.buildCodes = .ok u ∧ t = { u with flight := .idle }) ∨
    (∃ n e, s.flight = .write [] n e ∧ t = { s.finishWrite n e with flight := .idle }) ∨
    (∃ b bs n e, s.flight = .write (b :: bs) n e ∧ s.bitcnt = 7 ∧ s.fifoFull = true ∧ t = s) ∨
    (∃ b bs n e, s.flight = .write (b :: bs) n e ∧ (s.bitcnt ≠ 7 ∨ s.fifoFull = false) ∧
      t = { s.writeBit b with flight := .write bs n e }) ∨
    (s.flight = .flush ∧ s.bitcnt ≠ 0 ∧ s.fifoFull = true ∧ t = s) ∨
    (s.flight = .flush ∧ (s.bitcnt = 0 ∨ s.fifoFull = false) ∧ t = { s.flushHeld with flight := .idle }) := by
  unfold coreStep at h
  split at h
  · rename_i hf; injection h with h; exact .inl ⟨hf, h.symm⟩
  · rename_i b hf; injection h with h; exact .inr (.inl ⟨b, hf, h.symm⟩)
  · rename_i hf
    split at h
    · cases h
    · rename_i u hu; injection h with h; exact .inr (.inr (.inl ⟨u, hf, hu, h.symm⟩))
  · rename_i n e hf; injection h with h; exact .inr (.inr (.inr (.inl ⟨n, e, hf, h.symm⟩)))
  · rename_i b bs n e hf
    split at h
    · rename_i hc
      simp only [Bool.and_eq_true, decide_eq_true_eq] at hc
      injection h with h
      exact .inr (.inr (.inr (.inr (.inl ⟨b, bs, n, e, hf, hc.1, hc.2, h.symm⟩))))
    · rename_i hc
      simp only [Bool.and_eq_true, decide_eq_true_eq, not_and_or, Bool.not_eq_true] at hc
      injection h with h
      exact .inr (.inr (.inr (.inr (.inr (.inl ⟨b, bs, n, e, hf, hc, h.symm⟩)))))
  · rename_i hf
    split at h
    · rename_i hc
      simp only [Bool.and_eq_true, decide_eq_true_eq] at hc
      injection h with h
      exact .inr (.inr (.inr (.inr (.inr (.inr (.inl ⟨hf, hc.1, hc.2, h.symm⟩))))))
    · rename_i hc
      simp only [Bool.and_eq_true, decide_eq_true_eq, not_and_or, Bool.not_eq_true, not_not] at hc
      injection h with h
      exact .inr (.inr (.inr (.inr (.inr (.inr (.inr ⟨hf, hc, h.symm⟩))))))

/-- A step of the core faults only while it builds. -/
theorem coreStep_fault {s : State} {f : Fault} (h : coreStep s = .error f) : s.flight = .build ∧ s.buildCodes = .error f := by
  unfold coreStep at h
  split at h
  · cases h
  · cases h
  · rename_i hf
    split at h
    · rename_i g hg; injection h with h; exact ⟨hf, h ▸ hg⟩
    · cases h
  · cases h
  · split at h <;> cases h
  · split at h <;> cases h

/-- What no step of the core touches: the parameters, CTRL, the error registers, and everything of the host's. -/
theorem coreStep_frame {s t : State} (h : coreStep s = .ok t) :
    t.params = s.params ∧ t.tie = s.tie ∧ t.tieUsed = s.tieUsed ∧ t.errCode = s.errCode ∧ t.errCmd = s.errCmd ∧ t.hostq = s.hostq ∧
    t.pace = s.pace ∧ t.hostRd = s.hostRd ∧ t.hostOut = s.hostOut ∧
    t.sessionOut = s.sessionOut ∧ t.file = s.file ∧ t.draws = s.draws := by
  rcases coreStep_cases h with ⟨-, rfl⟩ | ⟨b, -, rfl⟩ | ⟨u, -, hu, rfl⟩ | ⟨n, e, -, rfl⟩ | ⟨b, bs, n, e, -, -, -, rfl⟩ |
    ⟨b, bs, n, e, -, -, rfl⟩ | ⟨-, -, -, rfl⟩ | ⟨-, -, rfl⟩
  · simp
  · simp
  · rw [State.buildCodes_frame hu]; simp
  · simp
  · simp
  · simp
  · simp
  · simp

/-! ### Several steps -/

theorem coreSteps_idle {s : State} (h : s.flight = .idle) (k : Nat) : coreSteps k s = .ok s := by
  induction k with
  | zero => rfl
  | succ k ih => simp only [coreSteps, coreStep_idle h, ih]

/-- Steps may be taken in two portions. -/
theorem coreSteps_add (j k : Nat) {s u : State} (h : coreSteps j s = .ok u) : coreSteps (j + k) s = coreSteps k u := by
  induction j generalizing s with
  | zero => simp only [coreSteps] at h; injection h with h; subst h; rw [Nat.zero_add]
  | succ j ih =>
    rw [Nat.add_right_comm]
    simp only [coreSteps] at h ⊢
    split at h
    · cases h
    · rename_i v hv
      exact ih h

/-- What every step of the core keeps, any number of steps keep. -/
theorem coreSteps_induct {P : State → Prop} (hstep : ∀ s t, P s → coreStep s = .ok t → P t) {k : Nat} {s t : State} (hs : P s)
    (h : coreSteps k s = .ok t) : P t := by
  induction k generalizing s with
  | zero => simp only [coreSteps] at h; injection h with h; exact h ▸ hs
  | succ k ih =>
    simp only [coreSteps] at h
    split at h
    · cases h
    · rename_i v hv; exact ih (hstep _ _ hs hv) h

theorem coreSteps_frame {k : Nat} {s t : State} (h : coreSteps k s = .ok t) :
    t.params = s.params ∧ t.tie = s.tie ∧ t.tieUsed = s.tieUsed ∧ t.errCode = s.errCode ∧ t.errCmd = s.errCmd ∧ t.hostq = s.hostq ∧
    t.pace = s.pace ∧ t.hostRd = s.hostRd ∧ t.hostOut = s.hostOut ∧
    t.sessionOut = s.sessionOut ∧ t.file = s.file ∧ t.draws = s.draws := by
  refine coreSteps_induct (P := fun u => u.params = s.params ∧ u.tie = s.tie ∧ u.tieUsed = s.tieUsed ∧ u.errCode = s.errCode ∧
    u.errCmd = s.errCmd ∧ u.hostq = s.hostq ∧ u.pace = s.pace ∧ u.hostRd = s.hostRd ∧ u.hostOut = s.hostOut ∧
    u.sessionOut = s.sessionOut ∧ u.file = s.file ∧ u.draws = s.draws)
    ?_ (by simp) h
  intro u v hu huv
  have := coreStep_frame huv
  simp_all

/-- `advance` is some number of steps: as many as the command in flight needs, or as the pace grants. -/
theorem advance_eq (s : State) :
    advance s = coreSteps (match s.pace with | .full => s.flight.length | .steps k => k) s := by
  cases hp : s.pace <;> simp [advance, hp]

theorem advance_idle {s : State} (h : s.flight = .idle) : advance s = .ok s := by
  rw [advance_eq]; exact coreSteps_idle h _

theorem advance_induct {P : State → Prop} (hstep : ∀ s t, P s → coreStep s = .ok t → P t) {s t : State} (hs : P s)
    (h : advance s = .ok t) : P t := by
  rw [advance_eq] at h; exact coreSteps_induct hstep hs h

theorem advance_frame {s t : State} (h : advance s = .ok t) :
    t.params = s.params ∧ t.tie = s.tie ∧ t.tieUsed = s.tieUsed ∧ t.errCode = s.errCode ∧ t.errCmd = s.errCmd ∧ t.hostq = s.hostq ∧
    t.pace = s.pace ∧ t.hostRd = s.hostRd ∧ t.hostOut = s.hostOut ∧
    t.sessionOut = s.sessionOut ∧ t.file = s.file ∧ t.draws = s.draws := by
  rw [advance_eq] at h; exact coreSteps_frame h

/-! ### The checks of a command word (60_exceptions.md R341) -/

theorem receive_ready {w : Word} {k : State → Answer} {s : State} (he : s.errCode = .none) (hf : s.flight = .idle) :
    receive w k s = k s := by
  have hb : s.busy = false := State.busy_eq_false.2 hf
  simp [receive, he, hb]

theorem receive_error {w : Word} {k : State → Answer} {s : State} (he : s.errCode ≠ .none) : receive w k s = settle (advance s) := by
  simp [receive, he]

theorem receive_busy {w : Word} {k : State → Answer} {s : State} (he : s.errCode = .none) (hb : s.busy = true) :
    receive w k s = settle (advance (s.raise .busyViolation w)) := by
  simp [receive, he, hb]

/-- A command that passes every check meets its own rule. -/
theorem accept_legal {i : Instr} {rule : State → Answer} {s : State} (he : s.errCode = .none) (hf : s.flight = .idle)
    (hw : i.wellFormed = true) (hl : legalIn i s.seqPhase = true) : accept i rule s = rule s := by
  simp [accept, receive_ready he hf, hw, hl]

theorem accept_illegal_phase {i : Instr} {rule : State → Answer} {s : State} (he : s.errCode = .none) (hf : s.flight = .idle)
    (hw : i.wellFormed = true) (hl : legalIn i s.seqPhase = false) :
    accept i rule s = .next (s.raise .sequence (encode i)) := by
  simp [accept, receive_ready he hf, hw, hl]

/-- Every way the checks of a command can turn out. -/
theorem accept_cases (i : Instr) (rule : State → Answer) (s : State) :
    (s.errCode ≠ .none ∧ accept i rule s = settle (advance s)) ∨
    (s.errCode = .none ∧ s.busy = true ∧ accept i rule s = settle (advance (s.raise .busyViolation (encode i)))) ∨
    (s.errCode = .none ∧ s.flight = .idle ∧ i.wellFormed = false ∧ accept i rule s = .next (s.raise .illegalCommand (encode i))) ∨
    (s.errCode = .none ∧ s.flight = .idle ∧ i.wellFormed = true ∧ legalIn i s.seqPhase = false ∧
      accept i rule s = .next (s.raise .sequence (encode i))) ∨
    (s.errCode = .none ∧ s.flight = .idle ∧ i.wellFormed = true ∧ legalIn i s.seqPhase = true ∧ accept i rule s = rule s) := by
  by_cases he : s.errCode = .none
  · by_cases hb : s.busy = true
    · exact .inr (.inl ⟨he, hb, receive_busy he hb⟩)
    · have hf : s.flight = .idle := State.busy_eq_false.1 (by simpa using hb)
      cases hw : i.wellFormed
      · exact .inr (.inr (.inl ⟨he, hf, rfl, by simp [accept, receive_ready he hf, hw]⟩))
      · cases hl : legalIn i s.seqPhase
        · exact .inr (.inr (.inr (.inl ⟨he, hf, rfl, rfl, accept_illegal_phase he hf hw hl⟩)))
        · exact .inr (.inr (.inr (.inr ⟨he, hf, rfl, rfl, accept_legal he hf hw hl⟩)))
  · exact .inl ⟨he, receive_error he⟩

end Sys2Proof.Machine
end

