-- ==== Sys2Proof/Laws/Access.lean ====
section
/-! SUPPORT. Which host accesses the core takes, and what a write of a command word comes to (spec 20_memory.md R81, R86, R87). -/

namespace Sys2Proof.Machine

/-- An access is taken exactly when it is a whole word at a multiple of 4 inside the window. -/
theorem accessOffset_ok {p : Params} {addr width off : Nat} :
    accessOffset p addr width = .ok off ↔
      p.huffBase ≤ addr ∧ addr < p.huffBase + 0x8000 ∧ width = 4 ∧ off % 4 = 0 ∧ off = addr - p.huffBase := by
  unfold accessOffset Config.window
  constructor
  · intro h
    split at h
    · cases h
    · split at h
      · cases h
      · split at h
        · cases h
        · injection h with h; omega
  · rintro ⟨h1, h2, h3, h4, h5⟩
    rw [if_neg (by omega), if_neg (by omega), if_neg (by omega), h5]

/-- The access the rules write as `HUFF_BASE + off`. -/
theorem accessOffset_base (p : Params) {off : Nat} (h1 : off < 0x8000) (h2 : off % 4 = 0) :
    accessOffset p (p.huffBase + off) 4 = .ok off :=
  accessOffset_ok.2 ⟨by omega, by omega, rfl, h2, by omega⟩

/-- A word written to CMD is a command. -/
theorem hostStep_command (s : State) (w : Word) (pace : Pace) :
    hostStep ⟨.write (s.params.huffBase + 0x000C) 4 w, pace⟩ s = command w s := by
  simp only [hostStep, accessOffset_base s.params (off := 0x000C) (by omega) (by omega)]
  rfl

/-- A turn of DRAIN with OUTQ empty. -/
theorem hostDrain_nil {a : HostAccess} {s : State} (h : s.outq = []) : hostDrain a s = settle (advance s) := by
  unfold hostDrain; rw [h]

/-- A turn of DRAIN that pops a byte. -/
theorem hostDrain_cons {a : HostAccess} {s : State} {b : Byte} {q : List Byte} (h : s.outq = b :: q) :
    hostDrain a s = settle (advance { s.popOut with hostq := a :: s.hostq }) := by
  unfold hostDrain; rw [h]

/-- A run that begins with a step to a next state. -/
theorem run_step (k : Nat) {s t : State} (h : step s = .next t) : Host.Core.run core (k + 1) s = Host.Core.run core k t := by
  have key (M : Host.Core) (s t : M.State) (h : M.step s = .next t) : M.run (k + 1) s = M.run k t := by simp only [Host.Core.run, h]
  exact key core s t h

/-- With no command in flight DRAIN pops every byte of OUTQ, and one step more ends it (30_encoding.md R127). -/
theorem drain_run {s : State} {p : Pace} {rest : List HostAccess} (hq : s.hostq = ⟨.drain, p⟩ :: rest) (hf : s.flight = .idle) :
    Host.Core.run core (s.outq.length + 1) s = .next { s.drained with hostq := rest, pace := p } := by
  have hs : step s = hostDrain ⟨.drain, p⟩ { s with hostq := rest, pace := p } := by unfold step; rw [hq]; rfl
  generalize hn : s.outq.length = n
  generalize hu : ({ s with hostq := rest, pace := p } : State) = u at hs
  have hi : u.flight = .idle := by rw [← hu]; exact hf
  induction n generalizing s u with
  | zero =>
    have h0 : s.outq = [] := List.length_eq_zero_iff.1 hn
    have h1 : u.outq = [] := by rw [← hu]; exact h0
    rw [hostDrain_nil h1, advance_idle hi, settle_ok] at hs
    rw [run_step 0 hs, ← hu]
    change Host.Outcome.next _ = _
    rw [State.drained, h0]
    simp
  | succ n ih =>
    obtain ⟨b, q, h0⟩ := List.exists_cons_of_length_eq_add_one hn
    have h1 : u.outq = b :: q := by rw [← hu]; exact h0
    rw [hostDrain_cons h1, advance_idle (by simpa using hi), settle_ok, State.popOut_cons h1, ← hu] at hs
    rw [run_step (n + 1) hs]
    refine (ih (s := { s with
      outq := q, hostq := ⟨.drain, p⟩ :: rest, pace := p, hostOut := s.hostOut ++ [b], sessionOut := s.sessionOut ++ [b] })
      rfl hf (by rw [h0] at hn; exact Nat.succ_injective hn) _ rfl rfl hf).trans ?_
    simp [State.drained, h0]

/-- The carried value does not depend on the byte order of the bus (20_memory.md R93). -/
theorem ofLanes_lanes (e : Endian) (v : Word) : Config.ofLanes e (Config.lanes e v) = v := by
  ext k hk
  cases e <;> simp [Config.ofLanes, Config.lanes, BitVec.getElem_or, BitVec.getElem_shiftLeft, BitVec.getElem_setWidth] <;>
    interval_cases k <;> simp

end Sys2Proof.Machine
end

