-- ==== Sys2Proof/Laws/Table.lean ====
section
/-! SUPPORT. Reading and writing a table. -/

namespace Sys2Proof.Machine

variable {α : Type} {n : Nat}

@[simp] theorem Table.read_fill (v : α) (i : Nat) : (Table.fill v : Table α n).read v i = v := by
  unfold Table.read Table.fill
  by_cases h : i < n <;> simp [h]

@[simp] theorem Table.read_write_same (t : Table α n) (d v : α) {i : Nat} (h : i < n) : (t.write i v).read d i = v := by
  have : i < t.entries.length := by rw [t.size_eq]; exact h
  simp [Table.read, Table.write, this]

@[simp] theorem Table.read_write_ne (t : Table α n) (d v : α) {i j : Nat} (h : i ≠ j) : (t.write i v).read d j = t.read d j := by
  simp [Table.read, Table.write, List.getElem?_set_ne h]

/-- A read after a write, whatever the two indexes. -/
theorem Table.read_write (t : Table α n) (d v : α) (i j : Nat) :
    (t.write i v).read d j = if i = j ∧ i < n then v else t.read d j := by
  by_cases hij : i = j
  · subst hij
    by_cases hi : i < n
    · simp [hi]
    · have : t.entries.length ≤ i := by rw [t.size_eq]; omega
      simp [Table.read, Table.write, hi, List.set_eq_of_length_le this]
  · simp [hij]

theorem Table.read_of_le (t : Table α n) (d : α) {i : Nat} (h : n ≤ i) : t.read d i = d := by
  have : t.entries.length ≤ i := by rw [t.size_eq]; exact h
  simp [Table.read, this]

/-- Two tables that read the same everywhere are the same. -/
theorem Table.ext_read {t u : Table α n} (d : α) (h : ∀ i, i < n → t.read d i = u.read d i) : t = u := by
  obtain ⟨l, hl⟩ := t
  obtain ⟨m, hm⟩ := u
  have : l = m := by
    apply List.ext_getElem (by rw [hl, hm])
    intro i h1 h2
    have := h i (by omega)
    simpa [Table.read, List.getD_eq_getElem?_getD, h1, h2] using this
  subst this; rfl

/-- What `writeFrom` leaves: the list's values from `i` on, the old entries elsewhere. -/
theorem Table.read_writeFrom (vs : List α) (t : Table α n) (d : α) (i j : Nat) (h : i + vs.length ≤ n) :
    (t.writeFrom i vs).read d j = if i ≤ j ∧ j < i + vs.length then vs.getD (j - i) d else t.read d j := by
  induction vs generalizing t i with
  | nil => simp only [Table.writeFrom, List.length_nil]; rw [if_neg (by omega)]
  | cons v vs ih =>
    simp only [List.length_cons] at h
    simp only [Table.writeFrom, List.length_cons]
    rw [ih _ _ (by omega), Table.read_write]
    by_cases hij : i = j
    · subst hij
      rw [if_neg (by omega), if_pos ⟨rfl, by omega⟩, if_pos (by omega)]
      simp
    · by_cases hr : i + 1 ≤ j ∧ j < i + 1 + vs.length
      · rw [if_pos hr, if_pos (by omega)]
        obtain ⟨k, rfl⟩ : ∃ k, j = i + 1 + k := ⟨j - (i + 1), by omega⟩
        have e1 : i + 1 + k - i = k + 1 := by omega
        have e2 : i + 1 + k - (i + 1) = k := by omega
        rw [e1, e2]; simp
      · rw [if_neg hr, if_neg (by omega), if_neg (by omega)]

end Sys2Proof.Machine
end

