-- ==== Sys2Proof/Laws/Heap.lean ====
section
/-! SUPPORT. What the heap operations do to the live entries (spec 41_heap.md R182 to R187): they keep them as a collection, `insert` adds one and
`extract_min` takes one. -/

namespace Sys2Proof.Machine

/-- The live entries HEAP[0..HSIZE-1] (41_heap.md R180). -/
def Heap.live (h : Heap) : List NodeIdx := (List.range h.size).map h.at

theorem Heap.mem_live {h : Heap} {x : NodeIdx} : x ∈ h.live ↔ ∃ i, i < h.size ∧ h.at i = x := by
  simp [Heap.live]

@[simp] theorem Heap.length_live (h : Heap) : h.live.length = h.size := by simp [Heap.live]

@[simp] theorem Heap.put_size (h : Heap) (i : Nat) (x : NodeIdx) : (h.put i x).size = h.size := rfl

@[simp] theorem Heap.swap_size (h : Heap) (i j : Nat) : (h.swap i j).size = h.size := rfl

theorem Heap.at_put (h : Heap) (i j : Nat) (x : NodeIdx) : (h.put i x).at j = if i = j ∧ i < 256 then x else h.at j :=
  Table.read_write _ _ _ _ _

/-- Changing HSIZE alone changes no entry. -/
@[simp] theorem Heap.at_resize (h : Heap) (n i : Nat) : Heap.at { h with size := n } i = h.at i := rfl

theorem Heap.at_swap {h : Heap} {i j : Nat} (hi : i < 256) (hj : j < 256) (k : Nat) :
    (h.swap i j).at k = h.at (Equiv.swap i j k) := by
  unfold Heap.swap
  rw [Heap.at_put, Heap.at_put, Equiv.swap_apply_def]
  by_cases h1 : k = j
  · subst h1
    by_cases h2 : k = i <;> simp [h2, hj, hi]
  · by_cases h2 : k = i
    · subst h2; simp [Ne.symm h1, hi]
    · simp [h1, h2, Ne.symm h1, Ne.symm h2]

theorem Heap.live_swap {h : Heap} {i j : Nat} (hi : i < h.size) (hj : j < h.size) (hs : h.size ≤ 256) :
    (h.swap i j).live.Perm h.live := by
  have hmap : (h.swap i j).live = ((List.range h.size).map (Equiv.swap i j)).map h.at := by
    simp only [Heap.live, Heap.swap_size, List.map_map]
    apply List.map_congr_left
    intro k _
    exact Heap.at_swap (by omega) (by omega) k
  rw [hmap]
  apply List.Perm.map
  rw [List.perm_ext_iff_of_nodup (List.nodup_range.map (Equiv.swap i j).injective) List.nodup_range]
  intro k
  simp only [List.mem_map, List.mem_range]
  constructor
  · rintro ⟨a, ha, rfl⟩
    rw [Equiv.swap_apply_def]; split_ifs <;> omega
  · intro hk
    refine ⟨Equiv.swap i j k, ?_, Equiv.swap_apply_self i j k⟩
    rw [Equiv.swap_apply_def]; split_ifs <;> omega

/-- The position `sift_down` goes on to is the one it is at, or one of its live children. -/
theorem Heap.smallest_cases (tie : Bool) (nodes : Table Node 511) (h : Heap) (i : Nat) :
    h.smallest tie nodes i = i ∨
    (h.smallest tie nodes i = 2 * i + 1 ∧ 2 * i + 1 < h.size) ∨ (h.smallest tie nodes i = 2 * i + 2 ∧ 2 * i + 2 < h.size) := by
  unfold Heap.smallest
  dsimp only
  split_ifs <;> simp_all

theorem Heap.smallest_lt {tie : Bool} {nodes : Table Node 511} {h : Heap} {i : Nat} (hi : i < h.size) :
    h.smallest tie nodes i < h.size := by
  rcases Heap.smallest_cases tie nodes h i with e | ⟨e, hl⟩ | ⟨e, hl⟩ <;> omega

@[simp] theorem Heap.siftDown_size (tie : Bool) (nodes : Table Node 511) (fuel i : Nat) (h : Heap) :
    (Heap.siftDown tie nodes fuel i h).size = h.size := by
  induction fuel generalizing i h with
  | zero => rfl
  | succ fuel ih => simp only [Heap.siftDown]; split <;> simp [ih]

theorem Heap.siftDown_live (tie : Bool) (nodes : Table Node 511) (fuel : Nat) {i : Nat} {h : Heap} (hi : i < h.size)
    (hs : h.size ≤ 256) : (Heap.siftDown tie nodes fuel i h).live.Perm h.live := by
  induction fuel generalizing i h with
  | zero => exact .rfl
  | succ fuel ih =>
    simp only [Heap.siftDown]
    split
    · exact .rfl
    · have hm := Heap.smallest_lt (tie := tie) (nodes := nodes) hi
      exact (ih (h := h.swap i _) (by simpa using hm) (by simpa using hs)).trans (Heap.live_swap hi hm hs)

@[simp] theorem Heap.siftUp_size (tie : Bool) (nodes : Table Node 511) (fuel i : Nat) (h : Heap) :
    (Heap.siftUp tie nodes fuel i h).size = h.size := by
  induction fuel generalizing i h with
  | zero => rfl
  | succ fuel ih => simp only [Heap.siftUp]; split <;> simp [ih]

theorem Heap.siftUp_live (tie : Bool) (nodes : Table Node 511) (fuel : Nat) {i : Nat} {h : Heap} (hi : i < h.size)
    (hs : h.size ≤ 256) : (Heap.siftUp tie nodes fuel i h).live.Perm h.live := by
  induction fuel generalizing i h with
  | zero => exact .rfl
  | succ fuel ih =>
    simp only [Heap.siftUp]
    split
    · exact (ih (h := h.swap i _) (by simp; omega) (by simpa using hs)).trans (Heap.live_swap hi (by omega) hs)
    · exact .rfl

@[simp] theorem Heap.heapify_size (tie : Bool) (nodes : Table Node 511) (k : Nat) (h : Heap) :
    (Heap.heapify tie nodes k h).size = h.size := by
  induction k generalizing h with
  | zero => rfl
  | succ k ih => simp [Heap.heapify, ih]

theorem Heap.heapify_live (tie : Bool) (nodes : Table Node 511) {k : Nat} {h : Heap} (hk : k ≤ h.size) (hs : h.size ≤ 256) :
    (Heap.heapify tie nodes k h).live.Perm h.live := by
  induction k generalizing h with
  | zero => exact .rfl
  | succ k ih =>
    simp only [Heap.heapify]
    exact (ih (by simp; omega) (by simpa using hs)).trans (Heap.siftDown_live tie nodes _ (by omega) hs)

@[simp] theorem Heap.build_size (tie : Bool) (nodes : Table Node 511) (h : Heap) : (h.build tie nodes).size = h.size :=
  Heap.heapify_size _ _ _ _

/-- `build()` rearranges the live entries. -/
theorem Heap.build_live (tie : Bool) (nodes : Table Node 511) {h : Heap} (hs : h.size ≤ 256) :
    (h.build tie nodes).live.Perm h.live :=
  Heap.heapify_live tie nodes (by omega) hs

/-- `insert(n)` succeeds on a heap that is not full, and adds `n` to the live entries. -/
theorem Heap.insert_spec (tie : Bool) (nodes : Table Node 511) (n : NodeIdx) {h : Heap} (hs : h.size < 256) :
    ∃ h', h.insert tie nodes n = .ok h' ∧ h'.size = h.size + 1 ∧ h'.live.Perm (n :: h.live) := by
  have hok : h.insert tie nodes n =
      .ok (Heap.siftUp tie nodes h.size h.size { slot := (h.put h.size n).slot, size := h.size + 1 }) :=
    if_pos (c := h.size < Config.heapCap) hs
  refine ⟨_, hok, by simp, ?_⟩
  refine (Heap.siftUp_live _ _ _ (by simp) (by simp; omega)).trans ?_
  simp only [Heap.live, List.range_succ, List.map_append, List.map_cons, List.map_nil]
  refine (List.perm_append_singleton _ _).trans ?_
  have e : Heap.at { slot := (h.put h.size n).slot, size := h.size + 1 } h.size = n := by
    change (h.put h.size n).at h.size = n
    rw [Heap.at_put, if_pos ⟨rfl, hs⟩]
  rw [e]
  refine .cons _ (.of_eq (List.map_congr_left fun k hk => ?_))
  have hk' : k < h.size := by simpa using hk
  change (h.put h.size n).at k = h.at k
  rw [Heap.at_put, if_neg (by omega)]

/-- `extract_min()` succeeds on a heap that is not empty, and takes HEAP[0] off the live entries. -/
theorem Heap.extractMin_spec (tie : Bool) (nodes : Table Node 511) {h : Heap} (h0 : 0 < h.size) (hs : h.size ≤ 256) :
    ∃ h', h.extractMin tie nodes = .ok (h.at 0, h') ∧ h'.size = h.size - 1 ∧ h.live.Perm (h.at 0 :: h'.live) := by
  have hne : h.size ≠ 0 := by omega
  have hok : h.extractMin tie nodes = .ok (h.at 0,
      if 0 < h.size - 1 then
        Heap.siftDown tie nodes (h.size - 1) 0 { slot := (h.put 0 (h.at (h.size - 1))).slot, size := h.size - 1 }
      else { slot := (h.put 0 (h.at (h.size - 1))).slot, size := h.size - 1 }) :=
    if_neg hne
  refine ⟨_, hok, ?_, ?_⟩
  · split <;> simp
  · obtain ⟨n, hn⟩ : ∃ n, h.size = n + 1 := ⟨h.size - 1, by omega⟩
    have base : h.live.Perm (h.at 0 :: Heap.live { slot := (h.put 0 (h.at (h.size - 1))).slot, size := h.size - 1 }) := by
      simp only [Heap.live, hn, Nat.add_sub_cancel]
      cases n with
      | zero => simp
      | succ m =>
        have e0 : Heap.at { slot := (h.put 0 (h.at (m + 1))).slot, size := m + 1 } 0 = h.at (m + 1) := by
          change (h.put 0 (h.at (m + 1))).at 0 = _
          rw [Heap.at_put, if_pos ⟨rfl, by omega⟩]
        have ek : ∀ k, Heap.at { slot := (h.put 0 (h.at (m + 1))).slot, size := m + 1 } (k + 1) = h.at (k + 1) := by
          intro k
          change (h.put 0 (h.at (m + 1))).at (k + 1) = _
          rw [Heap.at_put, if_neg (by omega)]
        rw [List.range_succ_eq_map (n := m), List.range_succ, List.range_succ_eq_map (n := m)]
        simp only [List.map_append, List.map_cons, List.map_map, List.map_nil, e0]
        refine List.Perm.cons _ ?_
        refine (List.perm_append_singleton _ _).trans (.cons _ (.of_eq (List.map_congr_left fun k _ => (ek k).symm)))
    split
    · rename_i hpos
      exact base.trans (.cons _ (Heap.siftDown_live _ _ _ hpos (by simp; omega)).symm)
    · exact base

end Sys2Proof.Machine
end

