-- ==== Sys2Proof/Laws/Packing.lean ====
section
/-! SUPPORT. The bits of a value, and the bits the packer holds before and after a shift (spec 44_bitpacker.md R260 to R262). -/

namespace Sys2Proof.Machine

@[simp] theorem length_bitsOf {m : Nat} (v : BitVec m) (n : Nat) : (bitsOf v n).length = n := by
  induction n with
  | zero => rfl
  | succ n ih => simp [bitsOf, ih]

/-- The `n` low bits, the highest first. -/
theorem bitsOf_eq_map {m : Nat} (v : BitVec m) (n : Nat) : bitsOf v n = (List.range n).reverse.map (fun k => v.getLsbD k) := by
  induction n with
  | zero => rfl
  | succ n ih => simp [bitsOf, ih, List.range_succ]

/-- Only the bits below `n` count. -/
theorem bitsOf_congr {m k : Nat} {v : BitVec m} {u : BitVec k} {n : Nat} (h : ∀ i, i < n → v.getLsbD i = u.getLsbD i) :
    bitsOf v n = bitsOf u n := by
  induction n with
  | zero => rfl
  | succ n ih => simp only [bitsOf]; rw [h n (by omega), ih fun i hi => h i (by omega)]

theorem getLsbD_shiftIn (acc : Byte) (b : Bool) (k : Nat) :
    (shiftIn acc b).getLsbD k = if k = 0 then b else decide (k < 8) && acc.getLsbD (k - 1) := by
  unfold shiftIn
  cases k with
  | zero => simp
  | succ k => cases b <;> simp

/-- A bit shifted in stands last. -/
theorem bitsOf_shiftIn (acc : Byte) (b : Bool) {n : Nat} (hn : n < 8) : bitsOf (shiftIn acc b) (n + 1) = bitsOf acc n ++ [b] := by
  rw [bitsOf_eq_map, bitsOf_eq_map, List.range_succ_eq_map]
  simp only [List.reverse_cons, List.map_append, List.map_reverse, List.map_cons, List.map_nil, List.map_map]
  congr 1
  · congr 1
    apply List.map_congr_left
    intro k hk
    have : k < n := by simpa using hk
    simp [getLsbD_shiftIn]
    omega
  · have h0 := getLsbD_shiftIn acc b 0
    simpa using h0

/-- The padding of a FLUSH: the valid bits first, then zeros. -/
theorem bitsOf_shiftLeft (acc : Byte) {n k : Nat} (h : n + k ≤ 8) :
    bitsOf (acc <<< k) (n + k) = bitsOf acc n ++ List.replicate k false := by
  induction n with
  | zero =>
    simp only [Nat.zero_add, bitsOf, List.nil_append]
    rw [bitsOf_eq_map, List.eq_replicate_iff]
    refine ⟨by simp, ?_⟩
    intro x hx
    simp only [List.mem_map, List.mem_reverse, List.mem_range] at hx
    obtain ⟨i, hi, rfl⟩ := hx
    simp [hi]
  | succ n ih =>
    rw [Nat.add_right_comm]
    simp only [bitsOf, List.cons_append]
    rw [ih (by omega)]
    congr 1
    simp
    omega

end Sys2Proof.Machine
end

