-- ==== Sys2Proof/Laws/PerInstr.lean ====
section
/-! SUPPORT. Statements about every command as syntax, one lemma per constructor. -/

namespace Sys2Proof.Laws.TableRow

/-- The word of a command is selected by its row's `match` and `mask` (spec 30_encoding.md R124). -/
def Statement (i : Instr) : Prop := encode i &&& tableMask i = tableMatch i

theorem nop : Statement .nop := by
  unfold Statement; decide

theorem clear : Statement .clear := by
  unfold Statement; decide

theorem count (b : Byte) : Statement (.count b) := by
  unfold Statement; revert b; decide

theorem build : Statement .build := by
  unfold Statement; decide

theorem encode (b : Byte) : Statement (.encode b) := by
  unfold Statement; revert b; decide

theorem flush : Statement .flush := by
  unfold Statement; decide

theorem packRaw (n : BitVec 5) (r : BitVec 16) : Statement (.packRaw n r) := by
  unfold Statement Sys2Proof.encode encodeC2 tableMask tableMatch
  ext k hk
  simp only [BitVec.getElem_and, BitVec.getElem_append]
  interval_cases k <;> simp

end Sys2Proof.Laws.TableRow
end

