-- ==== Sys2Proof/Laws/Tree.lean ====
section
/-! SUPPORT. The steps of BUILD (spec 42_tree.md R212 to R214). -/

namespace Sys2Proof.Machine

theorem length_leavesFrom (s : Nat) (fs : List Word) : (leavesFrom s fs).length = fs.countP (fun f => decide (f ≠ 0)) := by
  induction fs generalizing s with
  | nil => rfl
  | cons f fs ih =>
    by_cases h : f = 0
    · rw [leavesFrom, if_pos h, ih, List.countP_cons_of_neg (by simpa using h)]
    · rw [leavesFrom, if_neg h, List.length_cons, ih, List.countP_cons_of_pos (by simpa using h)]

/-- There are as many leaves as symbols with nonzero frequency. -/
theorem length_leavesOf (freq : Table Word 256) : (leavesOf freq).length = freq.entries.countP (fun f => decide (f ≠ 0)) :=
  length_leavesFrom 0 _

theorem length_leavesOf_le (freq : Table Word 256) : (leavesOf freq).length ≤ 256 := by
  rw [length_leavesOf]
  exact List.countP_le_length.trans_eq freq.size_eq

/-- The heap `plantLeaves` makes: one entry a leaf. -/
@[simp] theorem plantLeaves_size (tie : Bool) (freq : Table Word 256) (nodes : Table Node 511) (slot : Table NodeIdx 256) :
    (plantLeaves tie freq nodes slot).heap.size = (leavesOf freq).length := by
  simp [plantLeaves]

/-- One turn of the merge loop on a heap of two entries or more, with room in the arena and no weight overflow: two entries leave the heap, the
node over them enters it, and the arena gains that node. -/
theorem mergeOnce_spec (tie : Bool) {t : TreeWork} (h2 : 2 ≤ t.heap.size) (hs : t.heap.size ≤ 256) (hn : t.nnodes < 511)
    (hw : ∀ l r rest, t.heap.live.Perm (l :: r :: rest) → (nodeAt t.nodes l).w.toNat + (nodeAt t.nodes r).w.toNat < 2 ^ 32) :
    ∃ t' l r rest, mergeOnce tie t = .ok t' ∧ t.heap.live.Perm (l :: r :: rest) ∧
      t'.heap.live.Perm (BitVec.ofNat 9 t.nnodes :: rest) ∧ t'.heap.size = t.heap.size - 1 ∧ t'.nnodes = t.nnodes + 1 ∧
      t'.nodes = t.nodes.write t.nnodes (internalNode t.nodes l r) := by
  obtain ⟨h₁, e₁, s₁, p₁⟩ := Heap.extractMin_spec tie t.nodes (h := t.heap) (by omega) hs
  obtain ⟨h₂, e₂, s₂, p₂⟩ := Heap.extractMin_spec tie t.nodes (h := h₁) (by omega) (by omega)
  have p : t.heap.live.Perm (t.heap.at 0 :: h₁.at 0 :: h₂.live) := p₁.trans (.cons _ p₂)
  obtain ⟨h₃, e₃, s₃, p₃⟩ := Heap.insert_spec tie (t.nodes.write t.nnodes (internalNode t.nodes (t.heap.at 0) (h₁.at 0)))
    (BitVec.ofNat 9 t.nnodes) (h := h₂) (by omega)
  refine ⟨⟨t.nodes.write t.nnodes (internalNode t.nodes (t.heap.at 0) (h₁.at 0)), t.nnodes + 1, h₃⟩, t.heap.at 0, h₁.at 0, h₂.live, ?_, p, p₃, by simp; omega, rfl, rfl⟩
  have hw' := hw _ _ _ p
  unfold mergeOnce
  rw [e₁]
  dsimp only
  rw [e₂]
  dsimp only
  rw [if_neg (by omega), if_neg (by simp [Config.nodeMax]; omega), e₃]

end Sys2Proof.Machine
end

