-- ==== Sys2Proof/Tests/Slice0.lean ====
section
/-! SUPPORT. Tests with expected results from spec/95_test_vectors.md and the rules, and for every statement with hypotheses a concrete
state and operands that meet them. -/

namespace Sys2Proof.Tests

open Sys2Proof Sys2Proof.Machine

-- One theorem at a time: the kernel evaluations of this file side by side need more memory than a check may use.
set_option Elab.async false

/-! ### Small states -/

/-- What holds of the state an answer goes on to; false when there is none. -/
def after (a : Answer) (f : State → Bool) : Bool :=
  match a with
  | .next t => f t
  | .fault _ => false
  | .refused _ => false

/-- Whether an answer is a refusal. -/
def isRefused (a : Answer) : Bool :=
  match a with
  | .refused _ => true
  | .next _ => false
  | .fault _ => false

/-- A core in COLLECT with a FIFO of two bytes. -/
def fresh : State := State.resetAt ⟨0x10000, 2, .big⟩

/-- COLLECT, "aaaabbbcc" counted (95_test_vectors.md V1). -/
def counted : State :=
  { fresh with
    freq := (((Table.fill 0).write 0x61 4).write 0x62 3).write 0x63 2
    nsym := 3
    totalLen := 9 }

/-- COLLECT, "zzzz" counted (95_test_vectors.md V2). -/
def oneSymbol : State := { fresh with freq := (Table.fill 0).write 0x7A 4, nsym := 1, totalLen := 4 }

/-- READY, with the tree and the code table of V1: a = "0", b = "11", c = "10". -/
def ready : State :=
  { counted with
    seqPhase := .ready
    node := Table.writeFrom 0 [⟨.leaf, 0x61, 4, 0, 0⟩, ⟨.leaf, 0x62, 3, 0, 0⟩, ⟨.leaf, 0x63, 2, 0, 0⟩, ⟨.internal, 0, 5, 2, 1⟩,
      ⟨.internal, 0, 9, 0, 3⟩] (.fill Node.zero)
    nnodes := 5
    root := 4
    codeLen := (((Table.fill 0).write 0x61 1).write 0x62 2).write 0x63 2
    codeVal := (((Table.fill 0).write 0x61 0).write 0x62 3).write 0x63 2
    maxLen := 2
    expBits := 14 }

/-- READY with seven bits held and a full FIFO: the next bit stalls. -/
def brimming : State := { ready with acc := 0x7F, bitcnt := 7, outq := [0x01, 0x02], outBytes := 2 }

/-- A FLUSH waiting on the full FIFO. -/
def stalledFlush : State := { brimming with flight := .flush }

/-- An ENCODE waiting on the full FIFO. -/
def stalled : State := { brimming with flight := .write [true, true] 2 true }

/-- A core in ERROR. -/
def failed : State := { ready with errCode := .sequence, errCmd := 0x00006102 }

/-- The state with the host about to make one access. -/
def about (op : HostOp) (s : State) : State := { s with hostq := [⟨op, .full⟩] }

/-- The state with the host about to write a word to CMD. -/
def writing (w : Word) (s : State) : State := about (.write (s.params.huffBase + 0x000C) 4 w) s

/-- The state with the host about to read a register. -/
def reading (off : Nat) (s : State) : State := about (.read (s.params.huffBase + off) 4) s

/-! ### WellFormed: the one check, and terms it refuses -/

theorem test_wf_packRaw_zero : (Instr.packRaw 0 0).wellFormed = false := by decide
theorem test_wf_packRaw_seventeen : (Instr.packRaw 17 0).wellFormed = false := by decide
theorem test_wf_packRaw_bounds : (Instr.packRaw 1 0).wellFormed = true ∧ (Instr.packRaw 16 0).wellFormed = true := by decide

/-! ### Decoding: words written out bit by bit from 30_encoding.md R122 (OP in 7:0, BYTE in 15:8, NBITS in 12:8, RAW in 31:16) -/

theorem test_decode_nop : decode 0b00000000000000000000000000000000 = .ok .nop := by decide
theorem test_decode_clear : decode 0b00000000000000000000000000000001 = .ok .clear := by decide
theorem test_decode_count : decode 0b00000000000000001000000100000010 = .ok (.count 0x81) := by decide
theorem test_decode_build : decode 0b00000000000000000000000000000011 = .ok .build := by decide
theorem test_decode_encode : decode 0b00000000000000000111111000000100 = .ok (.encode 0x7E) := by decide
theorem test_decode_flush : decode 0b00000000000000000000000000000101 = .ok .flush := by decide
theorem test_decode_packRaw : decode 0b10000000000000010000100100000110 = .ok (.packRaw 9 0x8001) := by decide
/-- E13. -/
theorem test_decode_packRaw_high_bits : decode 0xFFFE0106 = .ok (.packRaw 1 0xFFFE) := by decide
/-- E3, E4. -/
theorem test_decode_not_clear : decode 0x00000101 = .error .zeroField ∧ decode 0x00000100 = .error .zeroField := by decide
/-- E7, E14, E15, E16. -/
theorem test_decode_illegal : decode 0x00010002 = .error .zeroField ∧ decode 0x00000006 = .error .nbitsRange ∧
    decode 0x00001106 = .error .nbitsRange ∧ decode 0x00002106 = .error .zeroField := by decide
/-- E17. -/
theorem test_decode_reserved : decode 0x00000107 = .error .reservedOpcode ∧ decode 0x000000FF = .error .reservedOpcode := by decide
/-- E12, in the table's numbering of bits. -/
theorem test_decodeTableWord : decodeTableWord 32 0xFFFF1006 = some (.packRaw 16 0xFFFF) ∧ decodeTableWord 32 0x7 = none := by decide

/-! ### NOP, CLEAR -/

/-- V48. -/
theorem test_nop_ready : after (exec .nop brimming) (fun t => decide (t = brimming)) = true := by decide +kernel
/-- V49: the held bits are lost. -/
theorem test_clear_ready : after (exec .clear brimming) (fun t => decide (t.bitcnt = 0 ∧ t.seqPhase = .collect ∧ t.outq = [] ∧ t.status = 0)) = true := by
  decide +kernel
/-- V66: CLEAR of a stalled ENCODE. -/
theorem test_clear_busy : after (step (writing 0x00000001 stalled)) (fun t => decide (t.busy = false ∧ t.errCode = .none ∧ t.outq = [])) = true := by
  decide +kernel

/-! ### COUNT -/

/-- V30, its third command. -/
theorem test_count_known_symbol : after (exec (.count 0x61) counted)
    (fun t => decide (t.freqAt 0x61 = 5 ∧ t.freqAt 0x62 = 3 ∧ t.nsym = 3 ∧ t.totalLen = 10)) = true := by decide +kernel
/-- V34: the limit. -/
theorem test_count_overflow : after (exec (.count 0) { fresh with totalLen := 0xFFFFFFFF })
    (fun t => decide (t.errCode = .freqOverflow ∧ t.errCmd = 0x00000002 ∧ t.freqAt 0 = 0)) = true := by decide +kernel
/-- V36: COUNT in READY. -/
theorem test_count_sequence : after (step (writing 0x00006102 ready))
    (fun t => decide (t.errCode = .sequence ∧ t.errCmd = 0x00006102 ∧ t.freqAt 0x61 = 4 ∧ t.status = 0x0E)) = true := by decide +kernel

/-! ### The heap primitives (95_test_vectors.md, section 4) -/

/-- Node `i` has weight `W[i]`. -/
def weights (ws : List Word) : Table Node 511 := Table.writeFrom 0 (ws.map fun w => { Node.zero with w := w }) (.fill Node.zero)

/-- A heap of the given entries. -/
def heapOf (es : List NodeIdx) : Heap := ⟨Table.writeFrom 0 es (.fill 0), es.length⟩

/-- The live entries. -/
def entriesOf (h : Heap) : List NodeIdx := (List.range h.size).map h.at

/-- V14: equal keys, the two orders differ. -/
theorem test_extractMin_ties :
    ((heapOf [0, 1, 2]).extractMin false (weights [2, 2, 2])).toOption.map (fun r => (r.1, entriesOf r.2)) = some (0, [2, 1]) ∧
    ((heapOf [0, 1, 2]).extractMin true (weights [2, 2, 2])).toOption.map (fun r => (r.1, entriesOf r.2)) = some (0, [1, 2]) := by
  decide +kernel
/-- V16. -/
theorem test_heap_build : entriesOf ((heapOf [0, 1, 2, 3, 4]).build false (weights [5, 4, 3, 2, 1])) = [4, 3, 2, 0, 1] := by decide +kernel
/-- V18. -/
theorem test_heap_insert :
    ((heapOf [1, 0, 2]).insert true (weights [3, 1, 2, 1]) 3).toOption.map entriesOf = some [1, 3, 2, 0] := by decide +kernel
/-- V19. -/
theorem test_heap_build_ties : entriesOf ((heapOf [3, 2, 1, 0]).build false (weights [4, 4, 4, 4])) = [3, 2, 1, 0] ∧
    entriesOf ((heapOf [3, 2, 1, 0]).build true (weights [4, 4, 4, 4])) = [0, 2, 1, 3] := by decide +kernel

/-! ### BUILD -/

/-- V1: the tree. -/
theorem test_build_tree : after (exec .build counted) (fun t => decide (t.nnodes = 5 ∧ t.root = 4 ∧
    t.nodeNo 3 = ⟨.internal, 0, 5, 2, 1⟩ ∧ t.nodeNo 4 = ⟨.internal, 0, 9, 0, 3⟩)) = true := by decide +kernel
/-- V1: the codes. -/
theorem test_build_codes : after (exec .build counted) (fun t => decide (t.codeBits 0x61 = [false] ∧ t.codeBits 0x62 = [true, true] ∧
    t.codeBits 0x63 = [true, false] ∧ t.maxLen = 2 ∧ t.expBits = 14)) = true := by decide +kernel
/-- V2: one symbol. -/
theorem test_build_one_symbol : after (exec .build oneSymbol) (fun t => decide (t.nnodes = 1 ∧ t.root = 0 ∧
    t.codeBits 0x7A = [false] ∧ t.maxLen = 1 ∧ t.expBits = 4)) = true := by decide +kernel
/-- V51. -/
theorem test_build_empty : after (exec .build fresh) (fun t => decide (t.errCode = .emptyInput ∧ t.errCmd = 3 ∧ t.nnodes = 0)) = true := by
  decide +kernel

/-! ### ENCODE, FLUSH, PACK_RAW -/

/-- V1's packer trace, ENCODE 6: held 000011, then b = "11" emits 0x0F. -/
theorem test_encode_emits : after (exec (.encode 0x62) { ready with acc := 0b000011, bitcnt := 6 })
    (fun t => decide (t.outq = [0x0F] ∧ t.bitcnt = 0 ∧ t.acc = 0 ∧ t.dataBits = 2 ∧ t.encCount = 1 ∧ t.outBytes = 1)) = true := by decide +kernel
/-- V53. -/
theorem test_encode_uncoded : after (exec (.encode 0x7A) ready) (fun t => decide (t.errCode = .uncodedSymbol ∧ t.errCmd = 0x00007A04 ∧
    t.encCount = 0)) = true := by decide +kernel
/-- V1: FLUSH of 111010. -/
theorem test_flush_pads : after (exec .flush { ready with acc := 0b111010, bitcnt := 6 })
    (fun t => decide (t.outq = [0xE8] ∧ t.lastPad = 2 ∧ t.bitcnt = 0)) = true := by decide +kernel
/-- V45. -/
theorem test_flush_empty : after (exec .flush { ready with lastPad := 5 }) (fun t => decide (t.outq = [] ∧ t.lastPad = 0 ∧ t.outBytes = 0)) = true := by
  decide +kernel
/-- V40, its second command: held 101, then 00011. -/
theorem test_packRaw_emits : after (exec (.packRaw 5 0b00011) { ready with acc := 0b101, bitcnt := 3 })
    (fun t => decide (t.outq = [0xA3] ∧ t.bitcnt = 0 ∧ t.dataBits = 5 ∧ t.encCount = 0)) = true := by decide +kernel
/-- V42: the bits above NBITS are ignored. -/
theorem test_packRaw_high_bits : after (exec (.packRaw 1 0xFFFE) ready) (fun t => decide (t.acc = 0 ∧ t.bitcnt = 1 ∧ t.dataBits = 1)) = true := by
  decide +kernel

/-! ### Errors, BUSY and the register window -/

/-- V58: ERROR keeps the first error. -/
theorem test_error_sticky : after (step (writing 0x00000107 failed)) (fun t => decide (t.errCode = .sequence ∧ t.errCmd = 0x00006102)) = true := by
  decide +kernel
/-- V65: a word written while BUILD runs. -/
theorem test_busy_violation : after (step (writing 0x00006104 { counted with flight := .build }))
    (fun t => decide (t.errCode = .busyViolation ∧ t.errCmd = 0x00006104 ∧ t.seqPhase = .ready ∧ t.phaseBits = 3)) = true := by decide +kernel
/-- 60_exceptions.md R342: 0x00000107 while BUSY = 1 reports BUSY_VIOLATION. -/
theorem test_busy_outranks_illegal : after (step (writing 0x00000107 stalled)) (fun t => decide (t.errCode = .busyViolation ∧ t.busy = true)) = true := by
  decide +kernel
/-- 95_test_vectors.md section 8: the OUT_DATA read of 0x0F. -/
theorem test_outData_pops : after (step (reading 0x0060 { ready with outq := [0x0F, 0xE8] }))
    (fun t => decide (t.hostRd = [0x0000010F] ∧ t.hostOut = [0x0F] ∧ t.outq = [0xE8])) = true := by decide +kernel
/-- A pop lets the stalled ENCODE go on: the held 1111111 and the next 1 make 0xFF. -/
theorem test_pop_unstalls : after (step (reading 0x0060 stalled))
    (fun t => decide (t.outq = [0x02, 0xFF] ∧ t.busy = false ∧ t.bitcnt = 1 ∧ t.encCount = 1)) = true := by decide +kernel
/-- 95_test_vectors.md section 8: STATUS = 0x12 with bytes in OUTQ. -/
theorem test_status_read : after (step (reading 0x0010 { ready with outq := [0x0F] })) (fun t => decide (t.hostRd = [0x12])) = true := by decide +kernel
/-- 20_memory.md R83: CODE_BITS word 0 of 'b' (section 8), and word 7 of the longest code. -/
theorem test_codeBits_window : (hostRead (regAt 0x1C40) ready).2 = 3 ∧ (hostRead (regAt 0x101C)
    { ready with codeVal := Table.fill (BitVec.allOnes 255) }).2 = 0x7FFFFFFF := by decide +kernel
/-- 20_memory.md R83: NODE word 1 of an internal node, and NODE[511]. -/
theorem test_node_window : (hostRead (regAt 0x4034)
      { ready with nnodes := 5, node := (Table.fill Node.zero).write 3 ⟨.internal, 0, 5, 2, 1⟩ }).2 = 0x00010000 ∧
    (hostRead (regAt 0x5FF0) { ready with nnodes := 511 }).2 = 0 := by decide +kernel
/-- 10_state.md R46: CAPS. -/
theorem test_caps : (hostRead (regAt 0x0004) fresh).2 = 0x00FF0002 := by decide +kernel
/-- 10_state.md R36: a CTRL write takes bit 0 alone. -/
theorem test_ctrl_write : after (step (about (.write 0x10008 4 0xFFFFFFFE) { ready with tie := true })) (fun t => decide (t.tie = false)) = true := by
  decide +kernel
/-- 20_memory.md R87, R81. -/
theorem test_access_refused : isRefused (step (about (.read 0x10010 2) ready)) = true ∧ isRefused (step (about (.read 0x10012 4) ready)) = true ∧
    isRefused (step (about (.read 0x18000 4) ready)) = true := by decide +kernel
/-- 70_reset_and_hazards.md R382. -/
theorem test_reset_event : after (step (about .reset { brimming with tie := true })) (fun t => decide (t.tie = false ∧ t.bitcnt = 0)) = true := by
  decide +kernel
/-- 30_encoding.md R128: `PACK 20, 0xABCDE`. -/
theorem test_pack_expansion : packStmts 20 0xABCDE =
    [.cmd (.packRaw 4 0xA), .wait, .cmd (.packRaw 16 0xBCDE), .wait] := by decide +kernel
/-- 46_host_serializer.md R323, step 3: the header and the records of V1, from the values of NSYM and FREQ read. -/
theorem test_writeHeader : after (step (about .writeHeader { ready with hostRd := 0x12 :: 3 :: counted.freq.entries }))
    (fun t => decide (t.file = [0x03, 0x61, 0, 0, 0, 4, 0x62, 0, 0, 0, 3, 0x63, 0, 0, 0, 2])) = true := by decide +kernel
/-- 46_host_serializer.md R320: the bytes of this session, not those of an earlier one. -/
theorem test_writePacked : after (step (about .writePacked { ready with file := [3], hostOut := [9, 0x0F], sessionOut := [0x0F] }))
    (fun t => decide (t.file = [3, 0x0F])) = true := by decide +kernel
/-- A session ends with CLEAR, HOSTOUT does not (30_encoding.md R127); a script starts with HOSTOUT empty. -/
theorem test_session_ends : after (exec .clear { ready with hostOut := [9], sessionOut := [9] })
    (fun t => decide (t.hostOut = [9] ∧ t.sessionOut = [])) = true ∧ (State.withScript { ready with hostOut := [9] } [.wait] []).hostOut = [] := by
  decide +kernel
/-- 46_host_serializer.md R321: the file of V1. -/
theorem test_file : fileOf counted.nsym counted.freq [0x0F, 0xE8] =
    [0x03, 0x61, 0, 0, 0, 4, 0x62, 0, 0, 0, 3, 0x63, 0, 0, 0, 2, 0x0F, 0xE8] := by decide +kernel

/-! ### A state and operands for the hypotheses of every statement that has some -/

/-- Whether the command answers a next state. -/
def goesOn (a : Answer) : Bool := after a (fun _ => true)

theorem test_witness_DecodeOfEncodeIsTheCommand : (Instr.packRaw 16 0xFFFF).wellFormed = true := by decide
theorem test_witness_EncodeOfDecodeIsTheWord : decode 0xFFFF1006 = .ok (.packRaw 16 0xFFFF) := by decide
theorem test_witness_OperandsComeFromTheirFields : decode 0x0000FF02 = .ok (.count 0xFF) ∧ decode 0x00000004 = .ok (.encode 0) ∧
    decode 0x80000106 = .ok (.packRaw 1 0x8000) := by decide
theorem test_witness_IllegalWordsRaiseIllegalCommand : decode 0x80000000 = .error .zeroField ∧ fresh.errCode = .none ∧ fresh.flight = .idle := by
  decide +kernel
theorem test_witness_StepRunsTheDecodedCommand :
    (writing 0x00006104 ready).hostq = ⟨.write ((writing 0x00006104 ready).params.huffBase + 0x000C) 4 0x00006104, .full⟩ :: [] ∧
    decode 0x00006104 = .ok (.encode 0x61) := by decide +kernel
theorem test_witness_FetchedCommandIsTheOneRun : (Instr.packRaw 1 0).wellFormed = true := by decide
theorem test_witness_ErrorStateIgnoresEveryWord : failed.errCode ≠ .none ∧ (0x00000101 : Word) ≠ 0x00000001 ∧ failed.flight = .idle ∧
    goesOn (command 0x00000101 failed) = true ∧ goesOn (command 0x00000000 { stalled with errCode := .sequence }) = true := by decide +kernel
theorem test_witness_OnlyClearAndResetEndAnError : goesOn (step (writing 0x00000001 failed)) = true ∧ goesOn (step (reading 0x60 failed)) = true ∧
    (writing 0x00000001 failed).errCode ≠ .none ∧ (reading 0x60 failed).errCode ≠ .none := by decide +kernel
theorem test_witness_BusyViolationDropsTheWord : stalled.errCode = .none ∧ stalled.busy = true ∧ (0 : Word) ≠ 0x00000001 ∧
    (coreSteps 3 stalled).isOk = true ∧ State.busy { stalled with errCode := .sequence } = true := by decide +kernel
theorem test_witness_OutOfPhaseCommandsRaiseSequence : ready.errCode = .none ∧ ready.flight = .idle ∧ ready.seqPhase = .ready ∧
    fresh.errCode = .none ∧ fresh.flight = .idle ∧ fresh.seqPhase = .collect ∧ (Instr.packRaw 16 0).wellFormed = true := by decide +kernel
theorem test_witness_ErrorsArePrecise : ready.errCode = .none ∧ ready.busy = false ∧
    after (command 0x00007A04 ready) (fun t => decide (t.errCode ≠ .none)) = true ∧
    after (command 0x00001106 ready) (fun t => decide (t.errCode = .illegalCommand)) = true := by decide +kernel
theorem test_witness_NopChangesNothing : ready.errCode = .none ∧ ready.flight = .idle := by decide +kernel
theorem test_witness_ClearEndsTheSession : stalled.params.wf := by decide +kernel
theorem test_witness_ResetIsClearWithTieZero : (about .reset stalled).hostq = ⟨.reset, .full⟩ :: [] := by decide +kernel
theorem test_witness_ResetLeavesTheInitialState : Params.wf ⟨0x8000, 65535, .big⟩ ∧ Params.wf ⟨0, 1, .little⟩ := by decide
theorem test_witness_CountAddsOne : counted.Accepting .collect ∧ counted.totalLen ≠ 0xFFFFFFFF ∧ counted.pace = .full ∧
    State.Accepting .collect { counted with totalLen := 0xFFFFFFFF } ∧ State.Accepting .collect { counted with totalLen := 0xFFFFFFFE } := by decide +kernel
theorem test_witness_CountsAreOrderFree : fresh.Accepting .collect ∧ fresh.pace = .full ∧ fresh.FreqInv ∧
    fresh.totalLen.toNat + [0x61, 0xFF, (0x61 : Byte)].length < 2 ^ 32 ∧ counted.FreqInv := by decide +kernel
theorem test_witness_EmptyBuildIsRejected : fresh.Accepting .collect ∧ fresh.nsym = 0 := by decide +kernel
theorem test_witness_BuildCompletes : counted.Accepting .collect ∧ counted.pace = .full ∧ counted.FreqInv ∧ counted.nsym ≠ 0 := by decide +kernel
theorem test_witness_OneSymbolGetsTheCodeZero : oneSymbol.Accepting .collect ∧ oneSymbol.pace = .full ∧ oneSymbol.CollectInv ∧ (4 : Word) ≠ 0 ∧
    oneSymbol.freq = (Table.fill 0).write (0x7A : Byte).toNat 4 ∧ oneSymbol.nsym = 1 := by decide +kernel
/-- The clauses for a host that drains after each command, at their boundary: a depth of 32. -/
theorem test_witness_drained : State.Accepting .ready { ready with params := ⟨0x10000, 32, .big⟩ } ∧
    (32 : Nat) ≤ (State.params { ready with params := ⟨0x10000, 32, .big⟩ }).outFifoDepth ∧ ready.outq = [] ∧
    ([0x61, 0x62, 0x63].flatMap ready.codeBits).length < 2 ^ 64 := by decide +kernel
/-- The hypotheses of the nine statements about what BUILD leaves: LeavesStandInSymbolOrder, InternalNodesFormATree, MergesTakeTheLightestNodes,
RootWeighsTheWholeInput, CodeLengthsAreBounded, CodesArePrefixFree, HigherFrequencyNoLongerCode, BuildDependsOnFrequenciesAndTieAlone (with
itself and with another HEAP) and TieIsSampledWhenBuildStarts, for N = 3 and N = 1. -/
theorem test_witness_Buildable : counted.Buildable ∧ oneSymbol.Buildable :=
  ⟨⟨by decide +kernel, by decide +kernel, by decide +kernel, by decide +kernel, by decide +kernel⟩,
    by decide +kernel, by decide +kernel, by decide +kernel, by decide +kernel, by decide +kernel⟩
theorem test_witness_Buildable_completes : goesOn (exec .build counted) = true ∧ goesOn (exec .build oneSymbol) = true := by decide +kernel
theorem test_witness_HigherFrequencyNoLongerCode : counted.freqAt 0x61 ≠ 0 ∧ counted.freqAt 0x62 ≠ 0 ∧ counted.freqAt 0x62 < counted.freqAt 0x61 ∧
    (0x61 : Byte) ≠ 0x62 := by decide +kernel
theorem test_witness_BuildDependsOnFrequenciesAndTieAlone :
    State.Buildable { counted with heap := ⟨.fill 7, 0⟩ } ∧ goesOn (exec .build { counted with heap := ⟨.fill 7, 0⟩ }) = true :=
  ⟨⟨by decide +kernel, by decide +kernel, by decide +kernel, by decide +kernel, by decide +kernel⟩, by decide +kernel⟩
theorem test_witness_HeapOperationsKeepTheOrder : (heapOf [1, 0, 2]).size ≤ 256 ∧
    ((heapOf [1, 0, 2]).insert false (weights [3, 1, 2, 1]) 3).isOk = true ∧
    ((heapOf [1, 0, 2]).extractMin false (weights [3, 1, 2, 1])).isOk = true ∧
    less false (weights [3, 1, 2, 1]) ((heapOf [1, 0, 2]).at 1) ((heapOf [1, 0, 2]).at 0) = false ∧
    less false (weights [3, 1, 2, 1]) ((heapOf [1, 0, 2]).at 2) ((heapOf [1, 0, 2]).at 0) = false := by decide +kernel
theorem test_witness_TieIsSampledWhenBuildStarts : (coreSteps 1 { counted with flight := .build }).isOk = true := by decide +kernel
theorem test_witness_EncodeWritesTheCode : ready.Accepting .ready ∧ ready.codeLenAt 0x62 ≠ 0 ∧ ready.pace = .full ∧
    ready.RoomFor (ready.codeLenAt 0x62).toNat ∧ ready.codeLenAt 0x7A = 0 := by decide +kernel
/-- The boundary: the command's one byte is the last that fits. -/
theorem test_witness_EncodeWritesTheCode_boundary : State.RoomFor 2 { ready with bitcnt := 7, outq := [0] } ∧
    ¬ State.RoomFor 2 { ready with bitcnt := 7, outq := [0, 0] } ∧ State.RoomFor 2 { ready with bitcnt := 5, outq := [0, 0] } := by decide +kernel
theorem test_witness_FlushPadsAndEmits : ready.Accepting .ready ∧ ready.pace = .full ∧ ready.bitcnt = 0 ∧
    State.Accepting .ready { ready with bitcnt := 7 } ∧ ready.outq.length < ready.params.outFifoDepth := by decide +kernel
theorem test_witness_PackRawWritesItsBits : ready.Accepting .ready ∧ ready.pace = .full ∧ ready.RoomFor 16 ∧ ready.RoomFor 1 ∧
    1 ≤ (16 : BitVec 5).toNat ∧ (16 : BitVec 5).toNat ≤ 16 := by decide +kernel
theorem test_witness_PackRawIgnoresTheBitsAbove : ready.Accepting .ready ∧ 1 ≤ (1 : BitVec 5).toNat ∧
    ∀ k, k < (1 : BitVec 5).toNat → (0xFFFE : BitVec 16).getLsbD k = (0 : BitVec 16).getLsbD k := by decide +kernel
theorem test_witness_FullFifoStallsThePacker : brimming.Accepting .ready ∧ brimming.pace = .full ∧
    brimming.outq.length ≤ brimming.params.outFifoDepth ∧ brimming.codeLenAt 0x61 ≠ 0 ∧ ¬ brimming.RoomFor (brimming.codeLenAt 0x61).toNat ∧
    ¬ brimming.RoomFor (16 : BitVec 5).toNat ∧ brimming.bitcnt ≠ 0 ∧ brimming.outq.length = brimming.params.outFifoDepth := by decide +kernel
theorem test_witness_DeepDrainedFifoNeverStalls : (32 : Nat) ≤ State.reset.params.outFifoDepth ∧ State.reset.outq = [] ∧
    State.reset.errCode = .none ∧ State.reset.flight = .idle ∧ State.reset.pace = .full ∧ goesOn (exec (.count 0) State.reset) = true := by decide +kernel
theorem test_witness_WaitFinishesAStalledCommand : (about .wait stalled).hostq = ⟨.wait, .full⟩ :: [] ∧ 1 ≤ stalled.params.outFifoDepth ∧
    stalled.flight = .write [true, true] 2 true ∧ (about .wait stalledFlush).hostq = ⟨.wait, .full⟩ :: [] ∧
    1 ≤ stalledFlush.params.outFifoDepth ∧ (about .wait stalledFlush).flight = .flush := by decide +kernel
theorem test_witness_StreamIsTheConcatenationOfTheCodes : ready.Accepting .ready ∧ ready.pace = .full ∧ ready.bitcnt = 0 ∧ ready.outq = [] ∧
    ready.dataBits = 0 ∧ ready.outBytes = 0 ∧ (∀ b ∈ [0x61, 0x62, (0x63 : Byte)], ready.codeLenAt b ≠ 0) ∧
    (([0x61, 0x62, 0x63].flatMap ready.codeBits).length + 7) / 8 ≤ ready.params.outFifoDepth ∧ ready.params.outFifoDepth ≤ 65535 := by decide +kernel
theorem test_witness_DataBitsEqualExpectedBits :
    let bs : List Byte := [0x61, 0x62, 0x63, 0x61, 0x62, 0x63, 0x61, 0x62, 0x61]
    ready.Accepting .ready ∧ ready.pace = .full ∧ ready.dataBits = 0 ∧ ready.encCount = 0 ∧ ready.FreqInv ∧
    (∀ b, (ready.freqAt b).toNat = bs.count b) ∧ (∀ b, ready.freqAt b ≠ 0 → ready.codeLenAt b ≠ 0) ∧
    ready.expBits = expBitsOf ready.freq.entries ready.codeLen.entries ∧ ready.RoomFor (bs.flatMap ready.codeBits).length := by decide +kernel
theorem test_witness_OnlyWholeWordsInTheWindowAreTaken : ready.params.wf ∧
    ¬ (ready.params.huffBase ≤ 0x18000 ∧ 0x18000 < ready.params.huffBase + 0x8000 ∧ 4 = 4 ∧ 0x18000 % 4 = 0) ∧
    ¬ (ready.params.huffBase ≤ 0x10000 ∧ 0x10000 < ready.params.huffBase + 0x8000 ∧ 1 = 4 ∧ 0x10000 % 4 = 0) ∧
    (about (.read 0x18000 4) ready).hostq = ⟨.read 0x18000 4, .full⟩ :: [] ∧
    (about (.write 0x10000 1 0) ready).hostq = ⟨.write 0x10000 1 0, .full⟩ :: [] := by decide +kernel
theorem test_witness_ReadsLeaveTheCoreAlone : (0x7FFC : Nat) < 0x8000 ∧ 0x7FFC % 4 = 0 ∧ 0x7FFC ≠ 0x0060 ∧
    (reading 0x7FFC stalled).hostq = ⟨.read ((reading 0x7FFC stalled).params.huffBase + 0x7FFC) 4, .full⟩ :: [] := by decide +kernel
theorem test_witness_OutDataPopsTheHead :
    (reading 0x0060 stalled).hostq = ⟨.read ((reading 0x0060 stalled).params.huffBase + 0x0060) 4, .full⟩ :: [] ∧
    (reading 0x0060 stalled).outq = 0x01 :: [0x02] ∧ (reading 0x0060 fresh).outq = [] := by decide +kernel
theorem test_witness_TableWindowsRead : ready.busy = false ∧ (511 : Nat) ≤ 511 ∧ 0 < (State.nnodes { ready with nnodes := 5 }).toNat := by
  decide +kernel
theorem test_witness_BusyReadsAreExactOrFree : stalled.busy = true ∧ (0x7FFC : Nat) < 0x8000 ∧ 0x7FFC % 4 = 0 ∧
    (0x7FFC : Nat) ∉ [0x0000, 0x0004, 0x0008, 0x000C, 0x0010, 0x0014, 0x0018, 0x0060, 0x0064] := by decide +kernel
theorem test_witness_WritesTouchOnlyCtrlAndCmd :
    (about (.write (stalled.params.huffBase + 0x0008) 4 1) stalled).hostq = ⟨.write (stalled.params.huffBase + 0x0008) 4 1, .full⟩ :: [] ∧
    (about (.write (ready.params.huffBase + 0x0068) 4 1) ready).hostq = ⟨.write (ready.params.huffBase + 0x0068) 4 1, .full⟩ :: [] ∧
    ready.busy = false ∧ (0x0068 ≤ 0x03FC ∧ 0x03FC < 0x0400) := by decide +kernel
theorem test_witness_ResetMeetsTheInvariant : Params.wf Config.resetParams ∧ Params.wf ⟨0x8000, 1, .big⟩ := by decide
/-- READY with the tree and the codes of V1 is what BUILD leaves (10_state.md R40, R42). -/
theorem test_built : ready.Built := by
  have syms : ∀ b, ready.freqAt b ≠ 0 → b = 0x61 ∨ b = 0x62 ∨ b = 0x63 := by decide +kernel
  refine ⟨by decide +kernel, by decide +kernel, ⟨by decide +kernel, ?_, ?_⟩, ⟨?_, ?_, ?_⟩, ?_, ⟨by decide +kernel, ?_⟩,
    ⟨by decide +kernel, by decide +kernel, by decide +kernel, by decide +kernel, by decide +kernel⟩, ?_, ?_,
    ⟨by decide +kernel, 0x62, by decide +kernel⟩, by decide +kernel⟩
  · have h : ∀ k, k < 3 → ∀ j, j < k → (ready.nodeNo j).sym < (ready.nodeNo k).sym := by decide +kernel
    exact fun j k hj hk => h k hk j hj
  · intro b hb
    rcases syms b hb with rfl | rfl | rfl
    · exact ⟨0, by decide +kernel⟩
    · exact ⟨1, by decide +kernel⟩
    · exact ⟨2, by decide +kernel⟩
  · have h : ∀ i, i < 5 → 3 ≤ i → (ready.nodeNo i).kind = .internal ∧ (ready.nodeNo i).sym = 0 ∧
        (ready.nodeNo i).left.toNat < i ∧ (ready.nodeNo i).right.toNat < i ∧ (ready.nodeNo i).left ≠ (ready.nodeNo i).right ∧
        (ready.nodeNo i).w.toNat =
          (ready.nodeNo (ready.nodeNo i).left.toNat).w.toNat + (ready.nodeNo (ready.nodeNo i).right.toNat).w.toNat := by decide +kernel
    exact fun i h1 h2 => h i h2 h1
  · have one : ∀ p, 3 ≤ p → p < 5 → ∀ j, (∀ i, i < 5 → 3 ≤ i → ((ready.nodeNo i).left.toNat = j ∨ (ready.nodeNo i).right.toNat = j) → i = p) →
        ((ready.nodeNo p).left.toNat = j ∨ (ready.nodeNo p).right.toNat = j) →
        ∃ i, (3 ≤ i ∧ i < 5 ∧ ((ready.nodeNo i).left.toNat = j ∨ (ready.nodeNo i).right.toNat = j)) ∧
          ∀ i', 3 ≤ i' → i' < 5 → ((ready.nodeNo i').left.toNat = j ∨ (ready.nodeNo i').right.toNat = j) → i' = i :=
      fun p h3 h5 j hu hp => ⟨p, ⟨h3, h5, hp⟩, fun i' h1 h2 => hu i' h2 h1⟩
    intro j hj
    have hj : j < 4 := hj
    obtain rfl | rfl | rfl | rfl : j = 0 ∨ j = 1 ∨ j = 2 ∨ j = 3 := by omega
    · exact one 4 (by omega) (by omega) 0 (by decide +kernel) (by decide +kernel)
    · exact one 3 (by omega) (by omega) 1 (by decide +kernel) (by decide +kernel)
    · exact one 3 (by omega) (by omega) 2 (by decide +kernel) (by decide +kernel)
    · exact one 4 (by omega) (by omega) 3 (by decide +kernel) (by decide +kernel)
  · intro i hi
    have hi : 5 ≤ i := hi
    have e : ready.nodeNo i = if 0 ≤ i ∧ i < 0 + 5 then _ else (Table.fill Node.zero : Table Node 511).read Node.zero i :=
      Table.read_writeFrom _ _ _ 0 i (by simp)
    rw [e, if_neg (by omega), Table.read_fill]
  · have h : ∀ i, i < 5 → 3 ≤ i → (ready.nodeNo (ready.nodeNo i).left.toNat).w.toNat ≤ (ready.nodeNo (ready.nodeNo i).right.toNat).w.toNat ∧
        (i + 1 < 5 → (ready.nodeNo (ready.nodeNo i).right.toNat).w.toNat ≤ (ready.nodeNo (ready.nodeNo (i + 1)).left.toNat).w.toNat) := by
      decide +kernel
    exact fun i h1 h2 => h i h2 h1
  · intro i
    by_cases hi : i < 5
    · have h : ∀ i, i < 5 → (ready.nodeNo i).w.toNat ≤ ready.totalLen.toNat := by decide +kernel
      exact h i hi
    · have e : ready.nodeNo i = if 0 ≤ i ∧ i < 0 + 5 then _ else (Table.fill Node.zero : Table Node 511).read Node.zero i :=
        Table.read_writeFrom _ _ _ 0 i (by simp)
      rw [e, if_neg (by omega), Table.read_fill]
      exact Nat.zero_le _
  · intro b c hbc hb hc
    rcases syms b hb with rfl | rfl | rfl <;> rcases syms c hc with rfl | rfl | rfl <;> revert hbc <;> decide +kernel
  · intro b c hb hc
    rcases syms b hb with rfl | rfl | rfl <;> rcases syms c hc with rfl | rfl | rfl <;> decide +kernel
/-- A state about to BUILD meets both invariants, and its step goes on (StepKeepsTheInvariant, NoInternalFaultOccurs). -/
theorem test_witness_StepKeepsTheInvariant : (writing 0x00000003 counted).Inv ∧ goesOn (step (writing 0x00000003 counted)) = true :=
  ⟨⟨⟨by decide +kernel, by decide +kernel, by decide +kernel, by decide +kernel, by decide +kernel, by decide +kernel, by decide +kernel,
    by decide +kernel, by decide +kernel⟩, fun h => absurd h (by decide +kernel), by decide +kernel, by decide +kernel⟩, by decide +kernel⟩
/-- So does a state of READY with a command waiting on the full FIFO. -/
theorem test_witness_StepKeepsTheInvariant_stalled : stalled.Inv ∧ goesOn (step stalled) = true :=
  ⟨⟨⟨by decide +kernel, by decide +kernel, by decide +kernel, by decide +kernel, by decide +kernel, by decide +kernel, by decide +kernel,
    by decide +kernel, by decide +kernel⟩, fun _ => test_built, by decide +kernel, by decide +kernel⟩, by decide +kernel⟩
theorem test_witness_PhaseChangesInThreeWays :
    after (step (writing 0x00000003 counted)) (fun t => decide (t.seqPhase ≠ (writing 0x00000003 counted).seqPhase)) = true ∧
    after (step { counted with flight := .build }) (fun t => decide (t.seqPhase ≠ .collect)) = true ∧
    after (step (about .reset ready)) (fun t => decide (t.seqPhase ≠ (about .reset ready).seqPhase)) = true := by decide +kernel
theorem test_witness_TablesAreReadOnlyInReady : (writing 0x00006104 ready).flightFits = true ∧ (writing 0x00006104 ready).seqPhase = .ready ∧
    goesOn (step (writing 0x00006104 ready)) = true := by decide +kernel
theorem test_witness_OutputBytesAreNeverLost : goesOn (step (reading 0x0060 stalled)) = true ∧ goesOn (step (writing 0x00000001 stalled)) = true := by
  decide +kernel
theorem test_witness_PartialProgressEndsTheSame : goesOn (exec (.encode 0x62) { ready with pace := .steps 1 }) = true ∧
    goesOn (exec (.encode 0x62) { ready with pace := .full }) = true ∧ goesOn (exec .build { counted with pace := .steps 0 }) = true := by decide +kernel
theorem test_witness_IdleCoreDoesNothing : ready.busy = false ∧ ready.hostq = [] := by decide +kernel
theorem test_witness_FileHasHeaderRecordsAndStream : counted.FreqInv ∧ ready.busy = false ∧
    (about .writePacked ready).hostq = ⟨.writePacked, .full⟩ :: [] := by decide +kernel
theorem test_witness_FileHasHeaderRecordsAndStream_reads :
    (ready.withScript (tableReads ++ [.writeHeader]) [.steps 2]).hostq =
      scriptAccesses (ready.withScript (tableReads ++ [.writeHeader]) [.steps 2]).params (tableReads ++ [.writeHeader]) [.steps 2] ++ [] := rfl

end Sys2Proof.Tests
end

namespace Sys2Proof.Machine

/-! ### What a step comes to

A step ends the session, or the host's access prepares the state and the core then takes some number of its own steps. -/

/-- A word of the format without operands is fixed by its opcode. -/
theorem eq_of_opcode_of_zeroField {w : Word} {n : Nat} (hop : (w.extractLsb' 0 8).toNat = n) (hz : w.extractLsb' 8 24 = 0) :
    w = BitVec.ofNat 32 n := by
  have hz' := congrArg BitVec.toNat hz
  simp only [BitVec.extractLsb'_toNat, Nat.shiftRight_eq_div_pow, BitVec.ofNat_eq_ofNat, BitVec.toNat_ofNat] at hop hz'
  apply BitVec.eq_of_toNat_eq
  rw [BitVec.toNat_ofNat]
  omega

theorem decodeC0_ok {w : Word} {i j : Instr} (h : decodeC0 w i = .ok j) : w.extractLsb' 8 24 = 0 ∧ i = j := by
  unfold decodeC0 at h
  split at h
  · injection h with h; exact ⟨‹_›, h⟩
  · cases h

theorem decodeC1_ok {w : Word} {mk : Byte → Instr} {j : Instr} (h : decodeC1 w mk = .ok j) : ∃ b, mk b = j := by
  unfold decodeC1 at h
  split at h
  · injection h with h; exact ⟨_, h⟩
  · cases h

theorem decodeC2_ok {w : Word} {mk : BitVec 5 → BitVec 16 → Instr} {j : Instr} (h : decodeC2 w mk = .ok j) :
    ∃ n r, mk n r = j := by
  unfold decodeC2 at h
  split at h
  · cases h
  · split at h
    · injection h with h; exact ⟨_, _, h⟩
    · cases h

/-- The exact words of the commands that change SEQ_PHASE (30_encoding.md R124). -/
theorem word_of_decode {w : Word} {i : Instr} (h : decode w = .ok i) :
    (i = .clear → w = 0x00000001) ∧ (i = .build → w = 0x00000003) := by
  unfold decode at h
  split at h
  · obtain ⟨-, rfl⟩ := decodeC0_ok h; simp
  · rename_i hop; obtain ⟨hz, rfl⟩ := decodeC0_ok h; simpa using eq_of_opcode_of_zeroField hop hz
  · obtain ⟨b, rfl⟩ := decodeC1_ok h; simp
  · rename_i hop; obtain ⟨hz, rfl⟩ := decodeC0_ok h; simpa using eq_of_opcode_of_zeroField hop hz
  · obtain ⟨b, rfl⟩ := decodeC1_ok h; simp
  · obtain ⟨-, rfl⟩ := decodeC0_ok h; simp
  · obtain ⟨n, r, rfl⟩ := decodeC2_ok h; simp
  · cases h

/-- CMD stands at one offset alone (20_memory.md R82). -/
theorem regAt_eq_cmd {off : Nat} (h : regAt off = .cmd) : off = 0x000C := by
  unfold regAt at h
  split at h
  · rcases hl : registerTable.lookup off with _ | r
    · simp [hl] at h
    · rw [hl, Option.getD_some] at h
      obtain ⟨l₁, l₂, hsplit, -⟩ := List.lookup_eq_some_iff.1 hl
      have hmem : (off, r) ∈ registerTable := by rw [hsplit]; simp
      simpa [registerTable, h] using hmem
  · split_ifs at h

/-- The host's next access writes the word of BUILD to CMD. -/
abbrev State.WritesBuild (s : State) : Prop :=
  ∃ p rest, s.hostq = ⟨.write (s.params.huffBase + 0x000C) 4 0x00000003, p⟩ :: rest

/-- `Prepared s u`: what a step from `s` makes of the core before it moves is `u`. The host's own fields and CTRL change, bytes are
popped, an error is recorded where there was none, or a command whose checks have passed goes in flight where there was none. -/
inductive Prepared (s : State) : State → Prop where
  | start : Prepared s s
  | host {u : State} (q : List HostAccess) (p : Pace) (rd : List Word) (f : List Byte) (d : Nat) (b : Bool) : Prepared s u →
      Prepared s { u with hostq := q, pace := p, hostRd := rd, file := f, draws := d, tie := b }
  | pop {u : State} : Prepared s u → Prepared s u.popOut
  | raise {u : State} (c : ErrCode) (w : Word) : Prepared s u → u.errCode = .none → c ≠ .none → Prepared s (u.raise c w)
  | launch {u : State} (f : Flight) : Prepared s u → u.errCode = .none → u.flight = .idle → f ≠ .build →
      State.flightFits { u with flight := f } = true → Prepared s { u with flight := f }
  | build {u : State} : Prepared s u → u.errCode = .none → u.flight = .idle →
      State.flightFits { u with flight := .build } = true → s.WritesBuild → Prepared s { u with tieUsed := u.tie, flight := .build }

/-- The core, prepared by the host's access, has taken some steps of its own. -/
def Moved (s t : State) : Prop := ∃ u, Prepared s u ∧ ∃ k, coreSteps k u = .ok t

/-- The access ends the session, and the state is that of CLEAR or of reset. -/
def Cleared (s t : State) : Prop :=
  s.EndsSession ∧ ∃ u, (∃ q p, u = { s with hostq := q, pace := p }) ∧ (t = u.clear ∨ t = u.resetEvent)

theorem Moved.of_settle {s t u : State} (hu : Prepared s u) (h : settle (advance u) = .next t) : Moved s t := by
  rw [settle_eq_next, advance_eq] at h
  exact ⟨u, hu, _, h⟩

theorem Moved.of_next {s t u : State} (hu : Prepared s u) (h : (.next u : Answer) = .next t) : Moved s t := by
  injection h with h
  exact ⟨u, hu, 0, congrArg Except.ok h⟩

/-- The checks of a command word only prepare the core; what is left is the command's own rule (60_exceptions.md R341). -/
theorem accept_moved {i : Instr} {rule : State → Answer} {s u t : State} (hu : Prepared s u) (h : accept i rule u = .next t)
    (hrule : u.errCode = .none → u.flight = .idle → legalIn i u.seqPhase = true → rule u = .next t → Moved s t) : Moved s t := by
  rcases accept_cases i rule u with ⟨-, e⟩ | ⟨he, -, e⟩ | ⟨he, -, -, e⟩ | ⟨he, -, -, -, e⟩ | ⟨he, hf, -, hl, e⟩ <;> rw [e] at h
  · exact .of_settle hu h
  · exact .of_settle (hu.raise _ _ he (by decide)) h
  · exact .of_next (hu.raise _ _ he (by decide)) h
  · exact .of_next (hu.raise _ _ he (by decide)) h
  · exact hrule he hf hl h

/-- So do those of a word that is ILLEGAL (30_encoding.md R126). -/
theorem rejectWord_moved {w : Word} {s u t : State} (hu : Prepared s u) (h : rejectWord w u = .next t) : Moved s t := by
  unfold rejectWord receive at h
  split at h
  · exact .of_settle hu h
  · rename_i he
    have he : u.errCode = .none := not_not.1 he
    split at h
    · exact .of_settle (hu.raise _ _ he (by decide)) h
    · exact .of_next (hu.raise _ _ he (by decide)) h

/-- A command that is accepted goes in flight, or records the error of its own rule (60_exceptions.md R342). -/
theorem exec_moved {i : Instr} {s u t : State} (hu : Prepared s u) (hb : i = .build → s.WritesBuild) (hc : i ≠ .clear)
    (h : exec i u = .next t) : Moved s t := by
  cases i with
  | nop => exact accept_moved hu h fun _ _ _ h => .of_next hu h
  | clear => exact absurd rfl hc
  | count b =>
    simp only [exec, execCount] at h
    refine accept_moved hu h fun he hf hl h => ?_
    split at h
    · exact .of_next (hu.raise _ _ he (by decide)) h
    · rename_i hmax
      exact .of_settle (hu.launch (.count b) he hf (by simp) (decide_eq_true ⟨of_decide_eq_true hl, hmax⟩)) h
  | build =>
    simp only [exec, execBuild] at h
    refine accept_moved hu h fun he hf hl h => ?_
    split at h
    · exact .of_next (hu.raise _ _ he (by decide)) h
    · rename_i hn
      exact .of_settle (hu.build he hf (decide_eq_true ⟨of_decide_eq_true hl, hn⟩) (hb rfl)) h
  | encode b =>
    simp only [exec, execEncode] at h
    refine accept_moved hu h fun he hf hl h => ?_
    split at h
    · exact .of_next (hu.raise _ _ he (by decide)) h
    · exact .of_settle (hu.launch (.write _ _ _) he hf (by simp) hl) h
  | flush => exact accept_moved hu h fun he hf hl h => .of_settle (hu.launch .flush he hf (by simp) hl) h
  | packRaw n r => exact accept_moved hu h fun he hf hl h => .of_settle (hu.launch (.write _ _ _) he hf (by simp) hl) h

/-- Every step ends the session or moves the core from a prepared state. -/
theorem step_cases {s t : State} (h : step s = .next t) : Cleared s t ∨ Moved s t := by
  unfold step at h
  split at h
  · exact .inr ⟨s, .start, 1, by rw [settle_eq_next] at h; simp only [coreSteps, h]⟩
  · rename_i a rest hq
    obtain ⟨op, pace⟩ := a
    have hu : Prepared s { s with hostq := rest, pace := pace } := Prepared.start.host _ _ s.hostRd s.file s.draws s.tie
    cases op with
    | read addr width =>
      simp only [hostStep] at h
      split at h
      · cases h
      · refine .inr (.of_settle ?_ h)
        unfold hostRead
        split
        · exact hu.pop.host _ _ _ _ _ _
        · split
          · exact hu.host _ _ _ _ _ _
          · exact hu.host _ _ _ _ _ _
    | write addr width v =>
      simp only [hostStep] at h
      split at h
      · cases h
      · rename_i off hoff
        obtain ⟨hlo, -, rfl, -, rfl⟩ := accessOffset_ok.1 hoff
        unfold hostWrite at h
        split at h
        · exact .inr (.of_settle (hu.host _ _ _ _ _ _) h)
        · split at h
          · rename_i hcmd
            have haddr : addr = s.params.huffBase + 0x000C := by
              have hoff : addr - s.params.huffBase = 0x000C := regAt_eq_cmd hcmd
              have hlo : s.params.huffBase ≤ addr := hlo
              omega
            unfold command at h
            split at h
            · rename_i i hi
              obtain ⟨hclear, hbuild⟩ := word_of_decode hi
              by_cases hc : i = .clear
              · subst hc
                injection h with h
                exact .inl ⟨⟨_, _, hq, .inr (by rw [haddr, hclear rfl])⟩, _, ⟨_, _, rfl⟩, .inl h.symm⟩
              · exact .inr (exec_moved hu (fun e => ⟨_, _, by rw [hq, haddr, hbuild e]⟩) hc h)
            · exact .inr (rejectWord_moved hu h)
          · exact .inr (.of_settle hu h)
    | wait =>
      simp only [hostStep, hostWait] at h
      split at h
      · exact .inr (.of_settle (hu.pop.host _ _ _ _ _ _) h)
      · exact .inr (.of_next hu h)
    | drain =>
      simp only [hostStep, hostDrain] at h
      split at h
      · exact .inr (.of_settle hu h)
      · exact .inr (.of_settle (hu.pop.host _ _ _ _ _ _) h)
    | reset =>
      injection h with h
      exact .inl ⟨⟨_, _, hq, .inl rfl⟩, _, ⟨_, _, rfl⟩, .inr h.symm⟩
    | writeHeader => exact .inr (.of_settle (hu.host _ _ _ _ _ _) h)
    | writePacked => exact .inr (.of_settle (hu.host _ _ _ _ _ _) h)

end Sys2Proof.Machine

namespace Sys2Proof.Machine

/-! ### Errors and SEQ_PHASE across a step -/

/-- Once an error is recorded no access but one that ends the session touches it (10_state.md R35). -/
theorem Prepared.keeps_error {s u : State} (h : Prepared s u) (he : s.errCode ≠ .none) :
    u.errCode = s.errCode ∧ u.errCmd = s.errCmd := by
  induction h with
  | start => exact ⟨rfl, rfl⟩
  | host q p rd f d b _ ih => exact ih
  | pop _ ih => simpa using ih
  | raise c w _ hn _ ih => exact absurd (ih.1.symm.trans hn) he
  | launch f _ hn _ _ _ ih => exact absurd (ih.1.symm.trans hn) he
  | build _ hn _ _ _ ih => exact absurd (ih.1.symm.trans hn) he

/-- Settles O11: only the two returns from an error leave none, and everything else keeps both registers. -/
theorem onlyClearAndResetEndAnError : Obligations.OnlyClearAndResetEndAnError := by
  intro s t h he
  rcases step_cases h with ⟨hend, u, -, rfl | rfl⟩ | ⟨u, hu, k, hk⟩
  · exact .inr ⟨hend, rfl, rfl⟩
  · exact .inr ⟨hend, rfl, rfl⟩
  · obtain ⟨hcode, hcmd⟩ := hu.keeps_error he
    obtain ⟨-, -, -, hcode', hcmd', -⟩ := coreSteps_frame hk
    exact .inl ⟨hcode'.trans hcode, hcmd'.trans hcmd⟩

/-- No access changes SEQ_PHASE before the core moves, and BUILD comes in flight by its own word alone. -/
theorem Prepared.keeps_phase {s u : State} (h : Prepared s u) :
    u.seqPhase = s.seqPhase ∧ (u.flight = .build → s.flight = .build ∨ s.WritesBuild) := by
  induction h with
  | start => exact ⟨rfl, .inl⟩
  | host q p rd f d b _ ih => exact ih
  | pop _ ih => simpa using ih
  | raise c w _ _ _ ih => exact ih
  | launch f _ _ _ hf _ ih => exact ⟨ih.1, fun e => absurd e hf⟩
  | build _ _ _ _ hw ih => exact ⟨ih.1, fun _ => .inr hw⟩

/-- One step of the core changes SEQ_PHASE only by ending a BUILD, and puts none in flight. -/
theorem coreStep_phase {s t : State} (h : coreStep s = .ok t) :
    (t.seqPhase = s.seqPhase ∧ (t.flight = .build → s.flight = .build)) ∨
    (s.flight = .build ∧ t.seqPhase = .ready ∧ t.flight = .idle) := by
  rcases coreStep_cases h with ⟨-, rfl⟩ | ⟨b, -, rfl⟩ | ⟨u, hf, hu, rfl⟩ | ⟨n, e, -, rfl⟩ | ⟨b, bs, n, e, -, -, -, rfl⟩ |
    ⟨b, bs, n, e, -, -, rfl⟩ | ⟨-, -, -, rfl⟩ | ⟨-, -, rfl⟩
  · exact .inl ⟨rfl, id⟩
  · exact .inl ⟨rfl, by simp⟩
  · exact .inr ⟨hf, by rw [State.buildCodes_frame hu], rfl⟩
  · exact .inl ⟨rfl, by simp⟩
  · exact .inl ⟨rfl, id⟩
  · exact .inl ⟨by simp, by simp⟩
  · exact .inl ⟨rfl, id⟩
  · exact .inl ⟨by simp, by simp⟩

theorem coreSteps_phase {k : Nat} {s t : State} (h : coreSteps k s = .ok t) :
    t.seqPhase = s.seqPhase ∨ (s.flight = .build ∧ t.seqPhase = .ready) := by
  have key : (t.seqPhase = s.seqPhase ∧ (t.flight = .build → s.flight = .build)) ∨ (s.flight = .build ∧ t.seqPhase = .ready) := by
    refine coreSteps_induct (P := fun u => (u.seqPhase = s.seqPhase ∧ (u.flight = .build → s.flight = .build)) ∨
      (s.flight = .build ∧ u.seqPhase = .ready)) ?_ (.inl ⟨rfl, id⟩) h
    rintro u v hu huv
    rcases coreStep_phase huv with ⟨hp, hf⟩ | ⟨hb, hr, -⟩
    · rw [hp]
      exact hu.imp_left fun ⟨h₁, h₂⟩ => ⟨h₁, h₂ ∘ hf⟩
    · exact .inr ⟨hu.elim (fun ⟨_, h₂⟩ => h₂ hb) (fun ⟨h₁, _⟩ => h₁), hr⟩
  exact key.imp_left And.left

/-- Settles O55: a core that moves changes SEQ_PHASE by a BUILD in flight, and an access that moves nothing ends the session. -/
theorem phaseChangesInThreeWays : Obligations.PhaseChangesInThreeWays := by
  intro s t h hne
  rcases step_cases h with ⟨hend, u, -, rfl | rfl⟩ | ⟨u, hu, k, hk⟩
  · exact .inr ⟨rfl, hend⟩
  · exact .inr ⟨rfl, hend⟩
  · obtain ⟨hp, hb⟩ := hu.keeps_phase
    rcases coreSteps_phase hk with he | ⟨hf, hr⟩
    · exact absurd (he.trans hp) hne
    · exact .inl ⟨hr, hb hf⟩

/-! ### The reset state and STATUS -/

theorem status_resetAt {p : Params} (hp : p.wf) : (State.resetAt p).status = 0 := by
  obtain ⟨-, hd, -⟩ := hp
  have hfull : (State.resetAt p).outFull = false := decide_eq_false (by simp [State.resetAt]; omega)
  have hvalid : (State.resetAt p).outValid = false := rfl
  have herr : (State.resetAt p).errFlag = false := rfl
  have hphase : (State.resetAt p).phaseBits = 0 := rfl
  have hbusy : (State.resetAt p).busy = false := rfl
  rw [State.status, hfull, hvalid, herr, hphase, hbusy]
  decide

/-- Settles O18: every field is read off the reset state, and STATUS is 0 as a depth of at least 1 is not reached. -/
theorem resetLeavesTheInitialState : Obligations.ResetLeavesTheInitialState := by
  rintro p hp t rfl
  have hfreq (b : Byte) : (State.resetAt p).freqAt b = 0 := Table.read_fill _ _
  have hnode (i : Nat) : (State.resetAt p).nodeNo i = Node.zero := Table.read_fill _ _
  have hcode (b : Byte) : (State.resetAt p).codeLenAt b = 0 ∧ (State.resetAt p).codeValAt b = 0 :=
    ⟨Table.read_fill _ _, Table.read_fill _ _⟩
  exact ⟨rfl, rfl, rfl, rfl, rfl, rfl, hfreq, rfl, rfl, hnode, rfl, rfl, rfl, hcode, rfl, rfl, rfl, rfl, rfl, rfl, rfl, rfl, rfl,
    status_resetAt hp⟩

theorem phaseBits_eq (s : State) : s.phaseBits = if s.errCode ≠ .none then 3 else if s.seqPhase = .ready then 1 else 0 := by
  unfold State.phaseBits
  cases s.seqPhase <;> rfl

/-- The fields of a word put together as STATUS is (10_state.md R38). -/
theorem status_layout (full valid err busy : Bool) (phase : BitVec 2) (w : Word)
    (hw : w = 0#26 ++ BitVec.ofBool full ++ BitVec.ofBool valid ++ BitVec.ofBool err ++ phase ++ BitVec.ofBool busy) :
    w.getLsbD 0 = busy ∧ w.extractLsb' 1 2 = phase ∧ w.getLsbD 3 = err ∧ w.getLsbD 4 = valid ∧ w.getLsbD 5 = full ∧
    w.extractLsb' 6 26 = 0 := by
  subst hw
  revert phase full valid err busy
  decide

/-- A read of STATUS is exact whether or not a command is in flight, and changes nothing (20_memory.md R90). -/
theorem hostRead_status (s : State) : hostRead (regAt 0x0010) s = (s, s.status) := by
  have hreg : regAt 0x0010 = .status := rfl
  simp [hostRead, hreg, Reg.exactWhileBusy, State.regValue]

/-- Settles O49: STATUS is put together from the fields, and its register is one of those that read exactly at any time. -/
theorem statusFieldsAreExact : Obligations.StatusFieldsAreExact := by
  intro s
  obtain ⟨hbusy, hphase, herr, hvalid, hfull, hzero⟩ := status_layout _ _ _ _ _ s.status rfl
  refine ⟨hbusy, hphase.trans (phaseBits_eq s), ?_, ?_, ?_, hzero, hostRead_status s⟩
  · rw [herr]; exact decide_eq_true_iff
  · rw [hvalid]; simp [State.outValid]
  · rw [hfull]; exact decide_eq_true_iff

/-! ### The invariant at the start of a session -/

/-- A table of zeros sums to 0 and has no nonzero entry. -/
theorem Table.totals_fill_zero (n : Nat) :
    ((Table.fill 0 : Table Word n).entries.map BitVec.toNat).sum = 0 ∧
    (Table.fill 0 : Table Word n).entries.countP (fun f => decide (f ≠ 0)) = 0 := by
  simp [Table.fill, List.countP_replicate]

/-- What a session starts from meets the invariant (10_state.md R32). -/
theorem inv_resetAt {p : Params} (hp : p.wf) : (State.resetAt p).Inv :=
  have ⟨hsum, hcount⟩ := Table.totals_fill_zero 256
  ⟨⟨hp, ⟨hsum.symm, hcount.symm⟩, rfl, Nat.one_pos, Nat.zero_le _, rfl,
      fun _ => ⟨rfl, rfl, rfl, rfl, rfl, rfl, rfl, rfl, rfl, rfl, rfl, rfl, rfl, rfl⟩, nofun, fun _ => rfl⟩,
    nofun, fun _ _ => rfl, rfl⟩

/-- Settles O52: the reset state of every legal choice of parameters meets the invariant, and `State.reset` is one of them. -/
theorem resetMeetsTheInvariant : Obligations.ResetMeetsTheInvariant :=
  ⟨fun _ => inv_resetAt, inv_resetAt (by decide)⟩

end Sys2Proof.Machine

namespace Sys2Proof.Machine

/-! ### The heap order (41_heap.md R181, R187)

`less` compares numbers, so the order of the heap is that of the numbers at its positions. -/

/-- The number `less` compares a node by: its weight, and below it the index where TIE_USED says so. -/
def rank (tie : Bool) (nodes : Table Node 511) (a : NodeIdx) : Nat :=
  if tie then (nodeAt nodes a).w.toNat * 512 + a.toNat else (nodeAt nodes a).w.toNat

theorem less_eq_rank (tie : Bool) (nodes : Table Node 511) (a b : NodeIdx) :
    less tie nodes a b = decide (rank tie nodes a < rank tie nodes b) := by
  have ha := a.isLt
  have hb := b.isLt
  cases tie
  · simp [less, rank, BitVec.lt_def]
  · simp only [less, rank, if_true, BitVec.lt_def, BitVec.toNat_eq, ← Bool.decide_and, ← Bool.decide_or]
    congr 1
    apply propext
    omega

theorem less_eq_false {tie : Bool} {nodes : Table Node 511} {a b : NodeIdx} :
    less tie nodes a b = false ↔ rank tie nodes b ≤ rank tie nodes a := by
  simp [less_eq_rank]

/-- A node of no higher rank weighs no more. -/
theorem weight_le_of_rank_le {tie : Bool} {nodes : Table Node 511} {a b : NodeIdx} (h : rank tie nodes a ≤ rank tie nodes b) :
    (nodeAt nodes a).w.toNat ≤ (nodeAt nodes b).w.toNat := by
  have ha := a.isLt
  have hb := b.isLt
  cases tie <;> simp only [rank, if_true, if_false, Bool.false_eq_true] at h <;> omega

section
variable (tie : Bool) (nodes : Table Node 511)

/-- The rank of the entry at a position. -/
abbrev Heap.rankAt (h : Heap) (j : Nat) : Nat := rank tie nodes (h.at j)

/-- The heap order at every live position whose parent is not below `lo`. -/
def Heap.OrderedFrom (lo : Nat) (h : Heap) : Prop :=
  ∀ j, 1 ≤ j → j < h.size → lo ≤ (j - 1) / 2 → h.rankAt tie nodes ((j - 1) / 2) ≤ h.rankAt tie nodes j

variable {tie nodes}

theorem Heap.ordered_iff {h : Heap} : h.Ordered tie nodes ↔ h.OrderedFrom tie nodes 0 :=
  ⟨fun H j h₁ h₂ _ => less_eq_false.1 (H j h₁ h₂), fun H j h₁ h₂ => less_eq_false.2 (H j h₁ h₂ (Nat.zero_le _))⟩

theorem Heap.rankAt_swap {h : Heap} {i j : Nat} (hi : i < 256) (hj : j < 256) (k : Nat) :
    (h.swap i j).rankAt tie nodes k =
      if k = i then h.rankAt tie nodes j else if k = j then h.rankAt tie nodes i else h.rankAt tie nodes k := by
  unfold Heap.rankAt
  rw [Heap.at_swap hi hj, Equiv.swap_apply_def]
  split_ifs <;> rfl

/-- A test of `sift_down`: of the position held and a live candidate it goes on with the one of least rank. -/
theorem Heap.rankAt_pick (h : Heap) (m c : Nat) :
    let p := if decide (c < h.size) && less tie nodes (h.at c) (h.at m) then c else m
    h.rankAt tie nodes p ≤ h.rankAt tie nodes m ∧ (c < h.size → h.rankAt tie nodes p ≤ h.rankAt tie nodes c) := by
  simp only [Heap.rankAt, less_eq_rank, Bool.and_eq_true, decide_eq_true_eq]
  split_ifs <;> omega

/-- The position `sift_down` goes on to holds the least of the three entries. -/
theorem Heap.smallest_le (h : Heap) (i : Nat) {c : Nat} (hc : c = i ∨ (c = 2 * i + 1 ∨ c = 2 * i + 2) ∧ c < h.size) :
    h.rankAt tie nodes (h.smallest tie nodes i) ≤ h.rankAt tie nodes c := by
  obtain ⟨hi, hl⟩ := Heap.rankAt_pick (tie := tie) (nodes := nodes) h i (2 * i + 1)
  obtain ⟨hm, hr⟩ := Heap.rankAt_pick (tie := tie) (nodes := nodes) h
    (if decide (2 * i + 1 < h.size) && less tie nodes (h.at (2 * i + 1)) (h.at i) then 2 * i + 1 else i) (2 * i + 2)
  rcases hc with rfl | ⟨rfl | rfl, hlt⟩
  · exact hm.trans hi
  · exact hm.trans (hl hlt)
  · exact hr hlt

/-- `sift_down(i)` mends a heap that is out of order at most between `i` and its children. -/
theorem Heap.siftDown_ordered {lo : Nat} (fuel : Nat) {i : Nat} {h : Heap} (hs : h.size ≤ 256) (hi : i < h.size) (hlo : lo ≤ i)
    (hfuel : h.size ≤ fuel + i)
    (hother : ∀ j, 1 ≤ j → j < h.size → lo ≤ (j - 1) / 2 → (j - 1) / 2 ≠ i →
      h.rankAt tie nodes ((j - 1) / 2) ≤ h.rankAt tie nodes j)
    (hgrand : ∀ j, 1 ≤ i → j < h.size → lo ≤ (i - 1) / 2 → (j - 1) / 2 = i →
      h.rankAt tie nodes ((i - 1) / 2) ≤ h.rankAt tie nodes j) :
    (Heap.siftDown tie nodes fuel i h).OrderedFrom tie nodes lo := by
  induction fuel generalizing i h with
  | zero => omega
  | succ fuel ih =>
    have hleast {c : Nat} := Heap.smallest_le (tie := tie) (nodes := nodes) h i (c := c)
    have hm := Heap.smallest_lt (tie := tie) (nodes := nodes) hi
    have hpos := Heap.smallest_cases tie nodes h i
    simp only [Heap.siftDown]
    generalize h.smallest tie nodes i = m at hleast hm hpos ⊢
    split
    · rename_i hmi
      intro j h₁ h₂ h₃
      by_cases hji : (j - 1) / 2 = i
      · rw [hji]
        exact hmi ▸ hleast (.inr ⟨by omega, h₂⟩)
      · exact hother j h₁ h₂ h₃ hji
    · rename_i hmi
      have hswap := Heap.rankAt_swap (tie := tie) (nodes := nodes) (h := h) (i := i) (j := m) (by omega) (by omega)
      refine ih (h := h.swap i m) hs hm (by omega) (by simp; omega) ?_ ?_
      · intro j h₁ h₂ h₃ h₄
        have h₂ : j < h.size := h₂
        rw [hswap, hswap, if_neg h₄]
        by_cases hj : j = i
        · subst hj
          rw [if_pos rfl, if_neg (by omega)]
          exact hgrand m h₁ hm h₃ (by omega)
        by_cases hjm : j = m
        · subst hjm
          rw [if_neg hj, if_pos rfl, if_pos (by omega)]
          exact hleast (.inl rfl)
        rw [if_neg hj, if_neg hjm]
        split_ifs with hpar
        · exact hleast (.inr ⟨by omega, h₂⟩)
        · exact hother j h₁ h₂ h₃ hpar
      · intro j _ h₂ _ hpar
        have h₂ : j < h.size := h₂
        have hup : (m - 1) / 2 = i := by omega
        rw [hswap, hswap, hup, if_pos rfl, if_neg (by omega), if_neg (by omega)]
        exact hpar ▸ hother j (by omega) h₂ (by omega) (by omega)

/-- `build()` puts any entries in order: a turn of its loop orders one position more. -/
theorem Heap.heapify_ordered {k : Nat} {h : Heap} (hs : h.size ≤ 256) (hk : k ≤ h.size / 2) (ho : h.OrderedFrom tie nodes k) :
    (Heap.heapify tie nodes k h).OrderedFrom tie nodes 0 := by
  induction k generalizing h with
  | zero => exact ho
  | succ k ih =>
    refine ih (by simpa using hs) (by simp; omega) (Heap.siftDown_ordered _ hs (by omega) le_rfl (by omega) ?_ ?_)
    · intro j h₁ h₂ h₃ h₄
      exact ho j h₁ h₂ (by omega)
    · intro j h₁ _ h₃ _
      omega

theorem Heap.build_ordered {h : Heap} (hs : h.size ≤ 256) : (h.build tie nodes).Ordered tie nodes :=
  Heap.ordered_iff.2 (Heap.heapify_ordered hs le_rfl fun j h₁ h₂ h₃ => by omega)

/-- `sift_up(i)` mends a heap that is out of order at most between `i` and its parent. -/
theorem Heap.siftUp_ordered (fuel : Nat) {i : Nat} {h : Heap} (hs : h.size ≤ 256) (hi : i < h.size) (hfuel : i ≤ fuel)
    (hother : ∀ j, 1 ≤ j → j < h.size → j ≠ i → h.rankAt tie nodes ((j - 1) / 2) ≤ h.rankAt tie nodes j)
    (hgrand : ∀ j, 1 ≤ i → j < h.size → (j - 1) / 2 = i → h.rankAt tie nodes ((i - 1) / 2) ≤ h.rankAt tie nodes j) :
    (Heap.siftUp tie nodes fuel i h).OrderedFrom tie nodes 0 := by
  induction fuel generalizing i h with
  | zero => exact fun j h₁ h₂ _ => hother j h₁ h₂ (by omega)
  | succ fuel ih =>
    simp only [Heap.siftUp, less_eq_rank, Bool.and_eq_true, decide_eq_true_eq]
    split
    · rename_i hlt
      obtain ⟨h0, hlt⟩ := hlt
      generalize hp : (i - 1) / 2 = p at hlt hgrand ⊢
      have hswap := Heap.rankAt_swap (tie := tie) (nodes := nodes) (h := h) (i := i) (j := p) (by omega) (by omega)
      have hpi : 1 ≤ p → h.rankAt tie nodes ((p - 1) / 2) ≤ h.rankAt tie nodes p := fun h1 => hother p h1 (by omega) (by omega)
      refine ih (h := h.swap i p) hs (by simp; omega) (by omega) ?_ ?_
      · intro j h₁ h₂ hjp
        have h₂ : j < h.size := h₂
        rw [hswap, hswap, if_neg hjp]
        by_cases hj : j = i
        · subst hj
          rw [if_pos rfl, hp, if_neg (by omega), if_pos rfl]
          exact hlt.le
        rw [if_neg hj]
        split_ifs with hpar hpar'
        · exact hgrand j (by omega) h₂ hpar
        · exact hlt.le.trans (hpar' ▸ hother j h₁ h₂ hj)
        · exact hother j h₁ h₂ hj
      · intro j h1 h₂ hpar
        have h₂ : j < h.size := h₂
        rw [hswap, hswap, if_neg (by omega), if_neg (by omega)]
        by_cases hj : j = i
        · rw [if_pos hj]; exact hpi h1
        · rw [if_neg hj, if_neg (by omega)]
          exact (hpi h1).trans (hpar ▸ hother j (by omega) h₂ hj)
    · rename_i hge
      intro j h₁ h₂ _
      by_cases hj : j = i
      · subst hj
        exact not_lt.1 fun hlt => hge ⟨by omega, hlt⟩
      · exact hother j h₁ h₂ hj

/-- In an ordered heap the root ranks no higher than any live entry. -/
theorem Heap.root_le {h : Heap} (ho : h.OrderedFrom tie nodes 0) {j : Nat} (hj : j < h.size) :
    h.rankAt tie nodes 0 ≤ h.rankAt tie nodes j := by
  induction j using Nat.strong_induction_on with
  | _ j ih =>
    by_cases h0 : j = 0
    · rw [h0]
    · exact (ih ((j - 1) / 2) (by omega) (by omega)).trans (ho j (by omega) hj (Nat.zero_le _))

theorem Heap.insert_ordered {n : NodeIdx} {h h' : Heap} (ho : h.Ordered tie nodes) (hi : h.insert tie nodes n = .ok h') :
    h'.Ordered tie nodes := by
  rw [Heap.ordered_iff] at ho ⊢
  unfold Heap.insert Config.heapCap at hi
  split at hi
  · rename_i hs
    injection hi with hi
    subst hi
    have hat {j : Nat} (hj : j < h.size) : (h.put h.size n).at j = h.at j := by rw [Heap.at_put, if_neg (by omega)]
    refine Heap.siftUp_ordered _ (by simp; omega) (by simp) le_rfl ?_ ?_
    · intro j h₁ h₂ hne
      have h₂ : j < h.size + 1 := h₂
      have h₂ : j < h.size := by omega
      simp only [Heap.rankAt, Heap.at_resize, hat h₂, hat (show (j - 1) / 2 < h.size by omega)]
      exact ho j h₁ h₂ (Nat.zero_le _)
    · intro j _ h₂ hpar
      have h₂ : j < h.size + 1 := h₂
      omega
  · cases hi

theorem Heap.extractMin_ordered {m : NodeIdx} {h h' : Heap} (hs : h.size ≤ 256) (ho : h.Ordered tie nodes)
    (he : h.extractMin tie nodes = .ok (m, h')) : h'.Ordered tie nodes ∧ ∀ x ∈ m :: h'.live, rank tie nodes m ≤ rank tie nodes x := by
  rw [Heap.ordered_iff] at ho ⊢
  have h0 : 0 < h.size := by
    by_contra h0
    rw [Heap.extractMin, if_pos (by omega)] at he
    cases he
  obtain ⟨h₁, e₁, -, hperm⟩ := Heap.extractMin_spec tie nodes h0 hs
  have hpair : (h.at 0, h₁) = (m, h') := Except.ok.inj (e₁.symm.trans he)
  obtain ⟨rfl, rfl⟩ := Prod.mk.inj hpair
  refine ⟨?_, fun x hx => ?_⟩
  · rw [Heap.extractMin, if_neg (by omega)] at he
    have he := (Prod.mk.inj (Except.ok.inj he)).2
    subst he
    have hat {j : Nat} (h1 : 1 ≤ j) : (h.put 0 (h.at (h.size - 1))).at j = h.at j := by rw [Heap.at_put, if_neg (by omega)]
    split
    · rename_i hpos
      refine Heap.siftDown_ordered _ (by simp; omega) hpos le_rfl (by simp) ?_ ?_
      · intro j h₁ h₂ _ hne
        have h₂ : j < h.size - 1 := h₂
        simp only [Heap.rankAt, Heap.at_resize, hat h₁, hat (show 1 ≤ (j - 1) / 2 by omega)]
        exact ho j h₁ (by omega) (Nat.zero_le _)
      · intro j h1
        omega
    · rename_i hpos
      intro j h₁ h₂ _
      exact absurd (lt_trans (by omega) h₂) hpos
  · obtain ⟨j, hj, rfl⟩ := Heap.mem_live.1 (hperm.mem_iff.2 hx)
    exact Heap.root_le ho hj

end

end Sys2Proof.Machine

namespace Sys2Proof.Machine

/-! ### The leaves (42_tree.md R212) -/

theorem leavesFrom_zero (s : Nat) (fs : List Word) : leavesFrom s (0 :: fs) = leavesFrom (s + 1) fs := if_pos rfl

theorem leavesFrom_ne_zero {f : Word} (hf : f ≠ 0) (s : Nat) (fs : List Word) :
    leavesFrom s (f :: fs) = leafNode s f :: leavesFrom (s + 1) fs := if_neg hf

/-- The leaves are those of the nonzero frequencies, each at its own symbol. -/
theorem mem_leavesFrom {s : Nat} {fs : List Word} {x : Node} :
    x ∈ leavesFrom s fs ↔ ∃ k f, fs[k]? = some f ∧ f ≠ 0 ∧ x = leafNode (s + k) f := by
  induction fs generalizing s with
  | nil => simp [leavesFrom]
  | cons g fs ih =>
    rw [← Nat.or_exists_add_one]
    simp only [List.getElem?_cons_zero, List.getElem?_cons_succ, Option.some.injEq, exists_eq_left', Nat.add_zero,
      ← Nat.add_assoc, Nat.add_right_comm s _ 1, ← ih]
    by_cases hg : g = 0
    · rw [hg, leavesFrom_zero]; simp
    · rw [leavesFrom_ne_zero hg, List.mem_cons]
      simp only [hg, ne_eq, not_false_eq_true, true_and]

/-- Their symbols ascend. -/
theorem leavesFrom_pairwise {s : Nat} {fs : List Word} (h : s + fs.length ≤ 256) :
    (leavesFrom s fs).Pairwise (fun x y => x.sym < y.sym) := by
  induction fs generalizing s with
  | nil => exact .nil
  | cons g fs ih =>
    rw [List.length_cons] at h
    have htail := ih (s := s + 1) (by omega)
    by_cases hg : g = 0
    · rwa [hg, leavesFrom_zero]
    · rw [leavesFrom_ne_zero hg, List.pairwise_cons]
      refine ⟨fun y hy => ?_, htail⟩
      obtain ⟨k, f, hk, -, rfl⟩ := mem_leavesFrom.1 hy
      have hk : k < fs.length := (List.getElem?_eq_some_iff.1 hk).1
      simp only [leafNode, BitVec.lt_def, BitVec.toNat_ofNat]
      omega

/-- Their weights add up to all the frequencies. -/
theorem sum_leavesFrom (s : Nat) (fs : List Word) :
    ((leavesFrom s fs).map fun x => x.w.toNat).sum = (fs.map BitVec.toNat).sum := by
  induction fs generalizing s with
  | nil => rfl
  | cons g fs ih =>
    by_cases hg : g = 0
    · rw [hg, leavesFrom_zero, ih]; simp
    · simp [leavesFrom_ne_zero hg, ih, leafNode]

/-- What a list of leaves is to a frequency table: one leaf for each counted symbol, in ascending order. -/
structure LeavesOf (freq : Table Word 256) (L : List Node) : Prop where
  leaf : ∀ x ∈ L, x.kind = .leaf ∧ x.left = 0 ∧ x.right = 0 ∧ x.w = freq.read 0 x.sym.toNat ∧ x.w ≠ 0
  ascending : L.Pairwise fun x y => x.sym < y.sym
  complete : ∀ b : Byte, freq.read 0 b.toNat ≠ 0 → ∃ x ∈ L, x.sym = b

theorem leavesOf_spec (freq : Table Word 256) : LeavesOf freq (leavesOf freq) where
  leaf x hx := by
    obtain ⟨k, f, hk, hf, rfl⟩ := mem_leavesFrom.1 hx
    have hlt : k < 256 := freq.size_eq ▸ (List.getElem?_eq_some_iff.1 hk).1
    exact ⟨rfl, rfl, rfl, by simp [leafNode, Table.read, Nat.mod_eq_of_lt hlt, hk], hf⟩
  ascending := leavesFrom_pairwise (by rw [freq.size_eq])
  complete b hb := by
    have hk : freq.entries[b.toNat]? = some (freq.read 0 b.toNat) := by
      have : b.toNat < freq.entries.length := by rw [freq.size_eq]; exact b.isLt
      simp [Table.read, this]
    exact ⟨leafNode (0 + b.toNat) _, mem_leavesFrom.2 ⟨_, _, hk, hb, rfl⟩, by simp [leafNode]⟩

/-- A leaf is given by its symbol. -/
theorem LeavesOf.nodup_sym {freq : Table Word 256} {L : List Node} (h : LeavesOf freq L) : (L.map Node.sym).Nodup :=
  List.pairwise_map.2 (h.ascending.imp fun hlt => BitVec.ne_of_lt hlt)

end Sys2Proof.Machine

namespace Sys2Proof.Machine

/-! ### Code trees and the walk (43_codegen.md R240, R241)

The shape of a code tree apart from the arena that holds it, the path to each of its leaves, and what the walk records for them. -/

/-- A code tree: a symbol, or two subtrees. -/
inductive CodeTree where
  | leaf (sym : Byte)
  | node (l r : CodeTree)

/-- The symbols of a tree, each with its path from the root: `false` to the left, `true` to the right. -/
def CodeTree.paths : CodeTree → List (Byte × List Bool)
  | .leaf s => [(s, [])]
  | .node l r => l.paths.map (fun e => (e.1, false :: e.2)) ++ r.paths.map (fun e => (e.1, true :: e.2))

/-- The symbols of a tree, from left to right. -/
def CodeTree.syms (t : CodeTree) : List Byte := t.paths.map Prod.fst

/-- How many nodes a tree has. -/
def CodeTree.size : CodeTree → Nat
  | .leaf _ => 1
  | .node l r => l.size + r.size + 1

@[simp] theorem CodeTree.syms_leaf (s : Byte) : (CodeTree.leaf s).syms = [s] := rfl

@[simp] theorem CodeTree.syms_node (l r : CodeTree) : (CodeTree.node l r).syms = l.syms ++ r.syms := by
  simp [CodeTree.syms, CodeTree.paths, Function.comp_def]

theorem CodeTree.mem_paths_node {l r : CodeTree} {e : Byte × List Bool} :
    e ∈ (CodeTree.node l r).paths ↔ (∃ p, (e.1, p) ∈ l.paths ∧ e.2 = false :: p) ∨ (∃ p, (e.1, p) ∈ r.paths ∧ e.2 = true :: p) := by
  obtain ⟨b, q⟩ := e
  simp [CodeTree.paths, eq_comm (b := q), and_comm]

theorem CodeTree.mem_syms {t : CodeTree} {b : Byte} : b ∈ t.syms ↔ ∃ p, (b, p) ∈ t.paths := by
  simp [CodeTree.syms]

theorem CodeTree.syms_of_mem_paths {t : CodeTree} {b : Byte} {p : List Bool} (h : (b, p) ∈ t.paths) : b ∈ t.syms :=
  CodeTree.mem_syms.2 ⟨p, h⟩

/-- A binary tree has one leaf more than it has internal nodes. -/
theorem CodeTree.size_eq (t : CodeTree) : t.size + 1 = 2 * t.syms.length := by
  induction t with
  | leaf s => rfl
  | node l r ihl ihr => simp only [CodeTree.size, CodeTree.syms_node, List.length_append]; omega

theorem CodeTree.syms_length_pos (t : CodeTree) : 0 < t.syms.length := by
  have := t.size_eq
  omega

/-- A path is shorter than the leaves are many (43_codegen.md R244). -/
theorem CodeTree.length_path_lt {t : CodeTree} {b : Byte} {p : List Bool} (h : (b, p) ∈ t.paths) : p.length < t.syms.length := by
  induction t generalizing p with
  | leaf s => simp_all [CodeTree.paths]
  | node l r ihl ihr =>
    have hl := l.syms_length_pos
    have hr := r.syms_length_pos
    rw [CodeTree.syms_node, List.length_append]
    rcases CodeTree.mem_paths_node.1 h with ⟨q, hq, rfl⟩ | ⟨q, hq, rfl⟩
    · have := ihl hq; simp only [List.length_cons]; omega
    · have := ihr hq; simp only [List.length_cons]; omega

/-- Below an internal root every path has at least one step. -/
theorem CodeTree.length_path_pos {t : CodeTree} {b : Byte} {p : List Bool} (h : (b, p) ∈ t.paths) (h2 : 2 ≤ t.syms.length) :
    0 < p.length := by
  cases t with
  | leaf s => simp at h2
  | node l r => rcases CodeTree.mem_paths_node.1 h with ⟨q, -, rfl⟩ | ⟨q, -, rfl⟩ <;> simp

/-- The path to one symbol does not begin the path to another (43_codegen.md R245). -/
theorem CodeTree.sym_eq_of_prefix {t : CodeTree} {b c : Byte} {p q : List Bool} (hb : (b, p) ∈ t.paths) (hc : (c, q) ∈ t.paths)
    (hpq : p <+: q) : b = c := by
  induction t generalizing p q with
  | leaf s => simp_all [CodeTree.paths]
  | node l r ihl ihr =>
    rcases CodeTree.mem_paths_node.1 hb with ⟨p, hp, rfl⟩ | ⟨p, hp, rfl⟩ <;>
      rcases CodeTree.mem_paths_node.1 hc with ⟨q, hq, rfl⟩ | ⟨q, hq, rfl⟩ <;>
      simp only [List.cons_prefix_cons, reduceCtorEq, true_and, false_and] at hpq
    · exact ihl hp hq hpq
    · exact ihr hp hq hpq

/-! What the walk records. -/

/-- The code of a path below a node whose own code is `v` (43_codegen.md R241). -/
def codeOf (v : Code) (p : List Bool) : Code := p.foldl BitVec.shiftConcat v

/-- What the walk of a tree records, from a root of code `v` at depth `d`. -/
def CodeTree.record : CodeTree → Code → Nat → CodeTable → CodeTable
  | .leaf s, v, d, c => c.record s d v
  | .node l r, v, d, c => r.record (v.shiftConcat true) (d + 1) (l.record (v.shiftConcat false) (d + 1) c)

/-- The arena holds the tree at a node; children stand below their parents (42_tree.md R217). -/
inductive Holds (nodes : Table Node 511) : NodeIdx → CodeTree → Prop where
  | leaf {i : NodeIdx} : (nodeAt nodes i).kind = .leaf → Holds nodes i (.leaf (nodeAt nodes i).sym)
  | node {i : NodeIdx} {l r : CodeTree} : (nodeAt nodes i).kind = .internal → (nodeAt nodes i).left.toNat < i.toNat →
      (nodeAt nodes i).right.toNat < i.toNat → Holds nodes (nodeAt nodes i).left l → Holds nodes (nodeAt nodes i).right r →
      Holds nodes i (.node l r)

/-- A tree is not touched by a node written above it. -/
theorem Holds.write {nodes : Table Node 511} {i : NodeIdx} {t : CodeTree} (h : Holds nodes i t) {n : Nat} (hn : i.toNat < n) (x : Node) :
    Holds (nodes.write n x) i t := by
  have same {j : NodeIdx} (hj : j.toNat < n) : nodeAt (nodes.write n x) j = nodeAt nodes j := Table.read_write_ne _ _ _ (by omega)
  induction h with
  | leaf hk => rw [← same hn]; exact .leaf (by rwa [same hn])
  | node hk hl hr _ _ ihl ihr =>
    rw [← same hn] at hk hl hr ihl ihr
    exact .node hk hl hr (ihl (by omega)) (ihr (by omega))

theorem two_mul_add_bit (v : Code) : 2 * v + 0 = v.shiftConcat false ∧ 2 * v + 1 = v.shiftConcat true := by
  constructor <;> apply BitVec.eq_of_toNat_eq <;> rw [BitVec.toNat_shiftConcat] <;> simp [Nat.shiftLeft_eq, Nat.mul_comm]

/-- The walk of a tree records it and goes on with the rest of its stack, in one turn for each node of the tree. -/
theorem walkCodes_tree {nodes : Table Node 511} {i : NodeIdx} {t : CodeTree} (h : Holds nodes i t) {d : Nat}
    (hd : ∀ e ∈ t.paths, d + e.2.length ≤ 255) (fuel : Nat) (v : Code) (stack : List (NodeIdx × Code × Nat)) (c : CodeTable) :
    walkCodes nodes (fuel + t.size) ((i, v, d) :: stack) c = walkCodes nodes fuel stack (t.record v d c) := by
  induction h generalizing d fuel v stack c with
  | leaf hk => simp only [CodeTree.size, walkCodes, hk, CodeTree.record]
  | @node i l r hk _ _ _ _ ihl ihr =>
    have hl : ∀ e ∈ l.paths, d + 1 + e.2.length ≤ 255 := fun e he => by
      have := hd (e.1, false :: e.2) (CodeTree.mem_paths_node.2 (.inl ⟨_, he, rfl⟩))
      simp only [List.length_cons] at this
      omega
    have hr : ∀ e ∈ r.paths, d + 1 + e.2.length ≤ 255 := fun e he => by
      have := hd (e.1, true :: e.2) (CodeTree.mem_paths_node.2 (.inr ⟨_, he, rfl⟩))
      simp only [List.length_cons] at this
      omega
    have hdepth : ¬ Config.maxCodeLen ≤ d := by
      obtain ⟨b, hb⟩ := List.exists_mem_of_length_pos l.syms_length_pos
      obtain ⟨p, hp⟩ := CodeTree.mem_syms.1 hb
      have := hl _ hp
      simp only [Config.maxCodeLen]
      omega
    have hfuel : fuel + (CodeTree.node l r).size = fuel + r.size + l.size + 1 := by simp only [CodeTree.size]; omega
    rw [hfuel]
    simp only [walkCodes, hk, if_neg hdepth]
    rw [ihl hl, ihr hr, (two_mul_add_bit v).1, (two_mul_add_bit v).2]
    rfl

/-- What the tables hold for a symbol. -/
def CodeTable.entry (c : CodeTable) (b : Byte) : Byte × Code := (c.len.read 0 b.toNat, c.val.read 0 b.toNat)

theorem CodeTable.entry_record_same (c : CodeTable) (b : Byte) (d : Nat) (v : Code) :
    (c.record b d v).entry b = (BitVec.ofNat 8 d, v) := by
  have hb : b.toNat < 256 := b.isLt
  simp [CodeTable.entry, CodeTable.record, hb]

theorem CodeTable.entry_record_ne (c : CodeTable) {b b' : Byte} (h : b ≠ b') (d : Nat) (v : Code) :
    (c.record b d v).entry b' = c.entry b' := by
  have hb : b.toNat ≠ b'.toNat := fun e => h (BitVec.eq_of_toNat_eq e)
  simp [CodeTable.entry, CodeTable.record, hb]

theorem CodeTree.record_of_not_mem {t : CodeTree} {b : Byte} (hb : b ∉ t.syms) (v : Code) (d : Nat) (c : CodeTable) :
    (t.record v d c).entry b = c.entry b := by
  induction t generalizing v d c with
  | leaf s => exact CodeTable.entry_record_ne _ (by simpa [eq_comm] using hb) _ _
  | node l r ihl ihr =>
    rw [CodeTree.syms_node, List.mem_append, not_or] at hb
    exact (ihr hb.2 _ _ _).trans (ihl hb.1 _ _ _)

/-- A symbol's entry is the length and the code of its path. -/
theorem CodeTree.record_of_mem {t : CodeTree} {b : Byte} {p : List Bool} (hb : (b, p) ∈ t.paths) (hn : t.syms.Nodup) (v : Code)
    (d : Nat) (c : CodeTable) : (t.record v d c).entry b = (BitVec.ofNat 8 (d + p.length), codeOf v p) := by
  induction t generalizing v d c p with
  | leaf s =>
    obtain ⟨rfl, rfl⟩ : b = s ∧ p = [] := by simpa [CodeTree.paths] using hb
    exact CodeTable.entry_record_same _ _ _ _
  | node l r ihl ihr =>
    rw [CodeTree.syms_node, List.nodup_append] at hn
    obtain ⟨hnl, hnr, hdisj⟩ := hn
    rcases CodeTree.mem_paths_node.1 hb with ⟨q, hq, rfl⟩ | ⟨q, hq, rfl⟩
    · have hr : b ∉ r.syms := fun hr => hdisj b (CodeTree.syms_of_mem_paths hq) b hr rfl
      refine (CodeTree.record_of_not_mem hr _ _ _).trans ((ihl hq hnl _ _ _).trans ?_)
      rw [List.length_cons, Nat.add_right_comm, Nat.add_assoc]; rfl
    · refine (ihr hq hnr _ _ _).trans ?_
      rw [List.length_cons, Nat.add_right_comm, Nat.add_assoc]; rfl

/-- One more bit stands last. -/
theorem bitsOf_shiftConcat (v : Code) (b : Bool) {n : Nat} (hn : n < 255) : bitsOf (v.shiftConcat b) (n + 1) = bitsOf v n ++ [b] := by
  simp only [bitsOf_eq_map, List.range_succ_eq_map, List.reverse_cons, List.map_append, List.map_reverse, List.map_map, List.map_cons,
    List.map_nil, BitVec.getLsbD_shiftConcat]
  congr 2
  apply List.map_congr_left
  intro k hk
  have hk : k < n := List.mem_range.1 hk
  simp
  omega

/-- The bits of a path's code are the path, and the code fits its length (43_codegen.md R241, 10_state.md R42). -/
theorem bitsOf_codeOf {v : Code} {d : Nat} {p : List Bool} (hd : d + p.length ≤ 255) (hv : v.toNat < 2 ^ d) :
    bitsOf (codeOf v p) (d + p.length) = bitsOf v d ++ p ∧ (codeOf v p).toNat < 2 ^ (d + p.length) := by
  induction p generalizing v d with
  | nil => simpa [codeOf] using hv
  | cons b p ih =>
    rw [List.length_cons] at hd
    have hstep := ih (v := v.shiftConcat b) (d := d + 1) (by omega) (BitVec.toNat_shiftConcat_lt_of_lt (by omega) hv)
    rw [bitsOf_shiftConcat v b (by omega), List.append_assoc, Nat.add_assoc, Nat.add_comm 1] at hstep
    exact hstep

end Sys2Proof.Machine

namespace Sys2Proof.Machine

/-! ### One turn of the merge loop takes two lightest entries (42_tree.md R214) -/

/-- The weight of NODE[i]. -/
abbrev weightAt (nodes : Table Node 511) (i : Nat) : Nat := (nodes.read Node.zero i).w.toNat

theorem read_write_arena {nodes : Table Node 511} {n j : Nat} {x : Node} (h : j ≠ n) :
    (nodes.write n x).read Node.zero j = nodes.read Node.zero j :=
  Table.read_write_ne _ _ _ h.symm

theorem nodeAt_write {nodes : Table Node 511} {n : Nat} {a : NodeIdx} {x : Node} (h : a.toNat ≠ n) :
    nodeAt (nodes.write n x) a = nodeAt nodes a :=
  read_write_arena h

/-- The heap order does not look at a node that is not in the heap. -/
theorem Heap.Ordered.write {tie : Bool} {nodes : Table Node 511} {h : Heap} (ho : h.Ordered tie nodes) {n : Nat}
    (hn : ∀ x ∈ h.live, x.toNat < n) (x : Node) : h.Ordered tie (nodes.write n x) := by
  have hrank {j : Nat} (hj : j < h.size) : rank tie (nodes.write n x) (h.at j) = rank tie nodes (h.at j) := by
    have hne := (hn _ (Heap.mem_live.2 ⟨j, hj, rfl⟩)).ne
    unfold rank
    rw [nodeAt_write hne]
  rw [Heap.ordered_iff] at ho ⊢
  intro j h₁ h₂ h₃
  simp only [Heap.rankAt, hrank h₂, hrank (show (j - 1) / 2 < h.size by omega)]
  exact ho j h₁ h₂ h₃

/-- A turn of the merge loop from `t` to `t'`: `l` and `r` leave the heap, no entry left is lighter than either, and the node over them
enters it. -/
structure MergeStep (tie : Bool) (t t' : TreeWork) (l r : NodeIdx) (rest : List NodeIdx) : Prop where
  room : t.nnodes < 511
  before : t.heap.live.Perm (l :: r :: rest)
  after : t'.heap.live.Perm (BitVec.ofNat 9 t.nnodes :: rest)
  size : t'.heap.size = t.heap.size - 1
  nnodes : t'.nnodes = t.nnodes + 1
  nodes : t'.nodes = t.nodes.write t.nnodes (internalNode t.nodes l r)
  ordered : t'.heap.Ordered tie t'.nodes
  leftLightest : ∀ x ∈ r :: rest, weightAt t.nodes l.toNat ≤ weightAt t.nodes x.toNat
  rightNext : ∀ x ∈ rest, weightAt t.nodes r.toNat ≤ weightAt t.nodes x.toNat

/-- `mergeOnce` on an ordered heap is such a turn: `mergeOnce_spec`, and the order. -/
theorem mergeOnce_mergeStep {tie : Bool} {t : TreeWork} (h2 : 2 ≤ t.heap.size) (hs : t.heap.size ≤ 256) (hn : t.nnodes < 511)
    (ho : t.heap.Ordered tie t.nodes) (hlt : ∀ x ∈ t.heap.live, x.toNat < t.nnodes)
    (hw : ∀ l r rest, t.heap.live.Perm (l :: r :: rest) → weightAt t.nodes l.toNat + weightAt t.nodes r.toNat < 2 ^ 32) :
    ∃ t' l r rest, mergeOnce tie t = .ok t' ∧ MergeStep tie t t' l r rest := by
  obtain ⟨h₁, e₁, s₁, p₁⟩ := Heap.extractMin_spec tie t.nodes (h := t.heap) (by omega) hs
  obtain ⟨h₂, e₂, s₂, p₂⟩ := Heap.extractMin_spec tie t.nodes (h := h₁) (by omega) (by omega)
  obtain ⟨o₁, m₁⟩ := Heap.extractMin_ordered hs ho e₁
  obtain ⟨o₂, m₂⟩ := Heap.extractMin_ordered (by omega) o₁ e₂
  generalize t.heap.at 0 = l at *
  generalize h₁.at 0 = r at *
  have p : t.heap.live.Perm (l :: r :: h₂.live) := p₁.trans (.cons _ p₂)
  have hrest : ∀ x ∈ h₂.live, x.toNat < t.nnodes := fun x hx => hlt x (p.mem_iff.2 (by simp [hx]))
  obtain ⟨h₃, e₃, s₃, p₃⟩ := Heap.insert_spec tie (t.nodes.write t.nnodes (internalNode t.nodes l r)) (BitVec.ofNat 9 t.nnodes)
    (h := h₂) (by omega)
  refine ⟨⟨t.nodes.write t.nnodes (internalNode t.nodes l r), t.nnodes + 1, h₃⟩, l, r, h₂.live, ?_, ?_⟩
  · have hw : ¬ 2 ^ 32 ≤ (nodeAt t.nodes l).w.toNat + (nodeAt t.nodes r).w.toNat := not_le.2 (hw l r _ p)
    have hroom : ¬ Config.nodeMax ≤ t.nnodes := not_le.2 hn
    unfold mergeOnce
    simp only [e₁, e₂, e₃, if_neg hw, if_neg hroom]
  · exact {
      room := hn
      before := p
      after := p₃
      size := by simp only; omega
      nnodes := rfl
      nodes := rfl
      ordered := Heap.insert_ordered (o₂.write hrest _) e₃
      leftLightest := fun x hx => weight_le_of_rank_le (m₁ x (List.mem_cons_of_mem _ (p₂.mem_iff.2 hx)))
      rightNext := fun x hx => weight_le_of_rank_le (m₂ x (List.mem_cons_of_mem _ hx)) }

/-! ### The arena while the tree is built (10_state.md R40, 42_tree.md R212, R214, R217) -/

/-- NODE[j] is a child of NODE[i]. -/
abbrev IsChild (nodes : Table Node 511) (i j : Nat) : Prop :=
  (nodes.read Node.zero i).left.toNat = j ∨ (nodes.read Node.zero i).right.toNat = j

/-- The weights of a list of nodes, added up. -/
def totalWeight (L : List Node) : Nat := (L.map fun x => x.w.toNat).sum

/-- An arena of `n` nodes: the leaves `L`, then internal nodes, each over two nodes below it that have no other parent, in the order of their
children's weights. -/
structure Arena (L : List Node) (n : Nat) (nodes : Table Node 511) : Prop where
  grown : L.length ≤ n
  leaf : ∀ i, i < L.length → nodes.read Node.zero i = L.getD i Node.zero
  unused : ∀ i, n ≤ i → nodes.read Node.zero i = Node.zero
  internal : ∀ i, L.length ≤ i → i < n → (nodes.read Node.zero i).kind = .internal ∧ (nodes.read Node.zero i).sym = 0
  below : ∀ i, L.length ≤ i → i < n → ∀ j, IsChild nodes i j → j < i
  distinct : ∀ i, L.length ≤ i → i < n → (nodes.read Node.zero i).left ≠ (nodes.read Node.zero i).right
  weight : ∀ i, L.length ≤ i → i < n → weightAt nodes i =
    weightAt nodes (nodes.read Node.zero i).left.toNat + weightAt nodes (nodes.read Node.zero i).right.toNat
  parent : ∀ i i' j, L.length ≤ i → i < n → L.length ≤ i' → i' < n → IsChild nodes i j → IsChild nodes i' j → i = i'
  lighterLeft : ∀ i, L.length ≤ i → i < n →
    weightAt nodes (nodes.read Node.zero i).left.toNat ≤ weightAt nodes (nodes.read Node.zero i).right.toNat
  inOrder : ∀ i k, L.length ≤ i → i < k → k < n →
    weightAt nodes (nodes.read Node.zero i).right.toNat ≤ weightAt nodes (nodes.read Node.zero k).left.toNat
  bound : ∀ i, weightAt nodes i ≤ totalWeight L

/-- A node over two nodes without a parent, no lighter than any node merged before, keeps the arena's shape. -/
theorem Arena.merge {L : List Node} {n : Nat} {nodes : Table Node 511} (h : Arena L n nodes) (hn : n < 511) {l r : NodeIdx}
    (hl : l.toNat < n) (hr : r.toNat < n) (hne : l ≠ r) (horphan : ∀ i, L.length ≤ i → i < n →
      ¬ IsChild nodes i l.toNat ∧ ¬ IsChild nodes i r.toNat)
    (hlr : weightAt nodes l.toNat ≤ weightAt nodes r.toNat)
    (hprev : ∀ i, L.length ≤ i → i < n → weightAt nodes (nodes.read Node.zero i).right.toNat ≤ weightAt nodes l.toNat)
    (hsum : weightAt nodes l.toNat + weightAt nodes r.toNat ≤ totalWeight L) (hfits : totalWeight L < 2 ^ 32) :
    Arena L (n + 1) (nodes.write n (internalNode nodes l r)) := by
  have hnew : (nodes.write n (internalNode nodes l r)).read Node.zero n = internalNode nodes l r := Table.read_write_same _ _ _ hn
  have hold {j : Nat} (hj : j ≠ n) : (nodes.write n (internalNode nodes l r)).read Node.zero j = nodes.read Node.zero j :=
    read_write_arena hj
  have hw : (internalNode nodes l r).w.toNat = weightAt nodes l.toNat + weightAt nodes r.toNat := by
    simp only [internalNode, BitVec.toNat_add, nodeAt]
    exact Nat.mod_eq_of_lt (hsum.trans_lt hfits)
  have hleft : (internalNode nodes l r).left = l := rfl
  have hright : (internalNode nodes l r).right = r := rfl
  have hbl {i : Nat} (h1 : L.length ≤ i) (h2 : i < n) : (nodes.read Node.zero i).left.toNat ≠ n := by
    have := h.below i h1 h2 _ (.inl rfl)
    omega
  have hbr {i : Nat} (h1 : L.length ≤ i) (h2 : i < n) : (nodes.read Node.zero i).right.toNat ≠ n := by
    have := h.below i h1 h2 _ (.inr rfl)
    omega
  constructor
  case grown => have := h.grown; omega
  case leaf =>
    intro i hi
    have := h.grown
    rw [hold (by omega)]
    exact h.leaf i hi
  case unused =>
    intro i hi
    rw [hold (by omega)]
    exact h.unused i (by omega)
  case internal =>
    intro i h1 h2
    by_cases hi : i = n
    · rw [hi, hnew]; exact ⟨rfl, rfl⟩
    · rw [hold hi]; exact h.internal i h1 (by omega)
  case below =>
    intro i h1 h2 j hj
    by_cases hi : i = n
    · rw [IsChild, hi, hnew, hleft, hright] at hj
      omega
    · rw [IsChild, hold hi] at hj; exact h.below i h1 (by omega) j hj
  case distinct =>
    intro i h1 h2
    by_cases hi : i = n
    · rw [hi, hnew]; exact hne
    · rw [hold hi]; exact h.distinct i h1 (by omega)
  case weight =>
    intro i h1 h2
    by_cases hi : i = n
    · rw [hi, weightAt, hnew, weightAt, hleft, hold hl.ne, weightAt, hright, hold hr.ne]; exact hw
    · rw [weightAt, hold hi, weightAt, hold (hbl h1 (by omega)), weightAt, hold (hbr h1 (by omega))]
      exact h.weight i h1 (by omega)
  case parent =>
    intro i i' j h1 h2 h1' h2' hj hj'
    by_cases hi : i = n <;> by_cases hi' : i' = n
    · omega
    · rw [IsChild, hi, hnew, hleft, hright] at hj
      rw [IsChild, hold hi'] at hj'
      have := horphan i' h1' (by omega)
      rcases hj with rfl | rfl
      · exact absurd hj' this.1
      · exact absurd hj' this.2
    · rw [IsChild, hi', hnew, hleft, hright] at hj'
      rw [IsChild, hold hi] at hj
      have := horphan i h1 (by omega)
      rcases hj' with rfl | rfl
      · exact absurd hj this.1
      · exact absurd hj this.2
    · rw [IsChild, hold hi] at hj
      rw [IsChild, hold hi'] at hj'
      exact h.parent i i' j h1 (by omega) h1' (by omega) hj hj'
  case lighterLeft =>
    intro i h1 h2
    by_cases hi : i = n
    · rw [hi, hnew, weightAt, hleft, hold hl.ne, weightAt, hright, hold hr.ne]; exact hlr
    · rw [hold hi, weightAt, hold (hbl h1 (by omega)), weightAt, hold (hbr h1 (by omega))]
      exact h.lighterLeft i h1 (by omega)
  case inOrder =>
    intro i k h1 h2 h3
    rw [hold (show i ≠ n by omega), weightAt, hold (hbr h1 (by omega))]
    by_cases hk : k = n
    · rw [hk, hnew, weightAt, hleft, hold hl.ne]; exact hprev i h1 (by omega)
    · rw [hold hk, weightAt, hold (hbl (by omega) (by omega))]
      exact h.inOrder i k h1 h2 (by omega)
  case bound =>
    intro i
    by_cases hi : i = n
    · rw [hi, weightAt, hnew, hw]; exact hsum
    · rw [weightAt, hold hi]; exact h.bound i

end Sys2Proof.Machine

namespace Sys2Proof.Machine

/-! ### The merge loop (42_tree.md R213 to R215) -/

/-- What the merge loop keeps: the arena, and a heap of the roots of a forest over all the leaves. -/
structure Forest (tie : Bool) (L : List Node) (t : TreeWork) : Prop where
  arena : Arena L t.nnodes t.nodes
  count : t.nnodes + t.heap.size = 2 * L.length
  nonempty : 0 < t.heap.size
  ordered : t.heap.Ordered tie t.nodes
  lt : ∀ x ∈ t.heap.live, x.toNat < t.nnodes
  nodup : t.heap.live.Nodup
  newest : ∃ x ∈ t.heap.live, x.toNat + 1 = t.nnodes
  covered : ∀ j, j < t.nnodes → (∃ x ∈ t.heap.live, x.toNat = j) ∨ ∃ i, L.length ≤ i ∧ i < t.nnodes ∧ IsChild t.nodes i j
  orphan : ∀ x ∈ t.heap.live, ∀ i, L.length ≤ i → i < t.nnodes → ¬ IsChild t.nodes i x.toNat
  heavier : ∀ i, L.length ≤ i → i < t.nnodes → ∀ x ∈ t.heap.live,
    weightAt t.nodes (t.nodes.read Node.zero i).right.toNat ≤ weightAt t.nodes x.toNat
  total : (t.heap.live.map fun x => weightAt t.nodes x.toNat).sum = totalWeight L
  trees : ∃ F : NodeIdx → CodeTree, (∀ x ∈ t.heap.live, Holds t.nodes x (F x)) ∧
    (t.heap.live.flatMap fun x => (F x).syms).Perm (L.map Node.sym)

section
variable {tie : Bool} {L : List Node} {t t' : TreeWork} {l r : NodeIdx} {rest : List NodeIdx}

theorem MergeStep.mem_before (m : MergeStep tie t t' l r rest) {x : NodeIdx} : x ∈ t.heap.live ↔ x = l ∨ x = r ∨ x ∈ rest := by
  simp [m.before.mem_iff]

theorem MergeStep.mem_after (m : MergeStep tie t t' l r rest) {x : NodeIdx} :
    x ∈ t'.heap.live ↔ x = BitVec.ofNat 9 t.nnodes ∨ x ∈ rest := by
  simp [m.after.mem_iff]

theorem MergeStep.toNat_new (m : MergeStep tie t t' l r rest) : (BitVec.ofNat 9 t.nnodes : NodeIdx).toNat = t.nnodes := by
  have := m.room
  rw [BitVec.toNat_ofNat]
  omega

theorem MergeStep.read_old (m : MergeStep tie t t' l r rest) {j : Nat} (hj : j < t.nnodes) :
    t'.nodes.read Node.zero j = t.nodes.read Node.zero j := by
  rw [m.nodes]; exact read_write_arena hj.ne

theorem MergeStep.read_new (m : MergeStep tie t t' l r rest) : t'.nodes.read Node.zero t.nnodes = internalNode t.nodes l r := by
  rw [m.nodes]; exact Table.read_write_same _ _ _ m.room

theorem Forest.lt_taken (h : Forest tie L t) (m : MergeStep tie t t' l r rest) :
    l.toNat < t.nnodes ∧ r.toNat < t.nnodes ∧ ∀ x ∈ rest, x.toNat < t.nnodes :=
  ⟨h.lt _ (m.mem_before.2 (.inl rfl)), h.lt _ (m.mem_before.2 (.inr (.inl rfl))),
    fun x hx => h.lt x (m.mem_before.2 (.inr (.inr hx)))⟩

theorem Forest.nodup_taken (h : Forest tie L t) (m : MergeStep tie t t' l r rest) : l ≠ r ∧ l ∉ rest ∧ r ∉ rest ∧ rest.Nodup := by
  have := m.before.nodup_iff.1 h.nodup
  simp only [List.nodup_cons, List.mem_cons, not_or] at this
  tauto

theorem Forest.fresh (h : Forest tie L t) (m : MergeStep tie t t' l r rest) : BitVec.ofNat 9 t.nnodes ∉ rest := fun hx => by
  have := (h.lt_taken m).2.2 _ hx
  rw [m.toNat_new] at this
  omega

/-- The weights of the two entries taken and of those left add up to the whole. -/
theorem Forest.total_before (h : Forest tie L t) (hp : t.heap.live.Perm (l :: r :: rest)) :
    weightAt t.nodes l.toNat + weightAt t.nodes r.toNat + (rest.map fun x => weightAt t.nodes x.toNat).sum = totalWeight L := by
  rw [← h.total, (hp.map _).sum_eq]
  simp [Nat.add_assoc]

variable (h : Forest tie L t) (m : MergeStep tie t t' l r rest)
include h m

theorem Forest.arena_merge (hfits : totalWeight L < 2 ^ 32) : Arena L t'.nnodes t'.nodes := by
  obtain ⟨hl, hr, -⟩ := h.lt_taken m
  have hsum := h.total_before m.before
  rw [m.nnodes, m.nodes]
  refine h.arena.merge m.room hl hr (h.nodup_taken m).1 (fun i h₁ h₂ => ⟨?_, ?_⟩) (m.leftLightest r List.mem_cons_self)
    (fun i h₁ h₂ => ?_) (by omega) hfits
  · exact h.orphan l (m.mem_before.2 (.inl rfl)) i h₁ h₂
  · exact h.orphan r (m.mem_before.2 (.inr (.inl rfl))) i h₁ h₂
  · exact h.heavier i h₁ h₂ l (m.mem_before.2 (.inl rfl))

theorem Forest.weight_new (hfits : totalWeight L < 2 ^ 32) :
    weightAt t'.nodes t.nnodes = weightAt t.nodes l.toNat + weightAt t.nodes r.toNat := by
  obtain ⟨hl, hr, -⟩ := h.lt_taken m
  rw [(h.arena_merge m hfits).weight _ h.arena.grown (by rw [m.nnodes]; omega), m.read_new, weightAt, weightAt]
  simp only [internalNode, m.read_old hl, m.read_old hr]

theorem Forest.covered_merge {j : Nat} (hj : j < t'.nnodes) :
    (∃ x ∈ t'.heap.live, x.toNat = j) ∨ ∃ i, L.length ≤ i ∧ i < t'.nnodes ∧ IsChild t'.nodes i j := by
  have hnn := m.nnodes
  have hchild {j : Nat} (hj : j = l.toNat ∨ j = r.toNat) : IsChild t'.nodes t.nnodes j := by
    rw [IsChild, m.read_new]; exact hj.imp Eq.symm Eq.symm
  by_cases hjn : j = t.nnodes
  · exact .inl ⟨_, m.mem_after.2 (.inl rfl), m.toNat_new.trans hjn.symm⟩
  rcases h.covered j (by omega) with ⟨x, hx, rfl⟩ | ⟨i, h₁, h₂, hi⟩
  · rcases m.mem_before.1 hx with rfl | rfl | hx
    · exact .inr ⟨t.nnodes, h.arena.grown, by omega, hchild (.inl rfl)⟩
    · exact .inr ⟨t.nnodes, h.arena.grown, by omega, hchild (.inr rfl)⟩
    · exact .inl ⟨x, m.mem_after.2 (.inr hx), rfl⟩
  · exact .inr ⟨i, h₁, by omega, by rwa [IsChild, m.read_old h₂]⟩

theorem Forest.orphan_merge (hfits : totalWeight L < 2 ^ 32) {x : NodeIdx} (hx : x ∈ t'.heap.live) {i : Nat} (h₁ : L.length ≤ i)
    (h₂ : i < t'.nnodes) : ¬ IsChild t'.nodes i x.toNat := by
  intro hi
  have hnn := m.nnodes
  have hlt := (h.arena_merge m hfits).below i h₁ h₂ _ hi
  rcases m.mem_after.1 hx with rfl | hx
  · have := m.toNat_new; omega
  obtain ⟨-, hl, hr, -⟩ := h.nodup_taken m
  by_cases hin : i = t.nnodes
  · rw [IsChild, hin, m.read_new] at hi
    rcases hi with hi | hi
    · have hlx : l = x := BitVec.eq_of_toNat_eq hi
      exact hl (hlx ▸ hx)
    · have hrx : r = x := BitVec.eq_of_toNat_eq hi
      exact hr (hrx ▸ hx)
  · rw [IsChild, m.read_old (by omega)] at hi
    exact h.orphan x (m.mem_before.2 (.inr (.inr hx))) i h₁ (by omega) hi

theorem Forest.heavier_merge (hfits : totalWeight L < 2 ^ 32) {i : Nat} (h₁ : L.length ≤ i) (h₂ : i < t'.nnodes) {x : NodeIdx}
    (hx : x ∈ t'.heap.live) : weightAt t'.nodes (t'.nodes.read Node.zero i).right.toNat ≤ weightAt t'.nodes x.toNat := by
  have hnn := m.nnodes
  obtain ⟨-, hr, hrest⟩ := h.lt_taken m
  have hright : weightAt t'.nodes (t'.nodes.read Node.zero i).right.toNat ≤ weightAt t.nodes r.toNat := by
    by_cases hin : i = t.nnodes
    · rw [hin, m.read_new, weightAt, show (internalNode t.nodes l r).right = r from rfl, m.read_old hr]
    · have hbelow := h.arena.below i h₁ (by omega) _ (.inr rfl)
      rw [m.read_old (show i < t.nnodes by omega), weightAt, m.read_old (by omega)]
      exact h.heavier i h₁ (by omega) r (m.mem_before.2 (.inr (.inl rfl)))
  refine hright.trans ?_
  rcases m.mem_after.1 hx with rfl | hx
  · rw [m.toNat_new, h.weight_new m hfits]; exact Nat.le_add_left _ _
  · exact (m.rightNext x hx).trans_eq (by rw [weightAt, weightAt, m.read_old (hrest x hx)])

theorem Forest.total_merge (hfits : totalWeight L < 2 ^ 32) :
    (t'.heap.live.map fun x => weightAt t'.nodes x.toNat).sum = totalWeight L := by
  rw [(m.after.map _).sum_eq, List.map_cons, List.sum_cons, m.toNat_new, h.weight_new m hfits, ← h.total_before m.before]
  congr 2
  exact List.map_congr_left fun x hx => by rw [weightAt, m.read_old ((h.lt_taken m).2.2 x hx)]

theorem Forest.trees_merge : ∃ F : NodeIdx → CodeTree, (∀ x ∈ t'.heap.live, Holds t'.nodes x (F x)) ∧
    (t'.heap.live.flatMap fun x => (F x).syms).Perm (L.map Node.sym) := by
  obtain ⟨hl, hr, -⟩ := h.lt_taken m
  obtain ⟨F, hF, hperm⟩ := h.trees
  have hsame : ∀ x ∈ rest, Function.update F (BitVec.ofNat 9 t.nnodes) (.node (F l) (F r)) x = F x :=
    fun x hx => Function.update_of_ne (ne_of_mem_of_not_mem hx (h.fresh m)) _ _
  have hkeep {x : NodeIdx} (hx : x ∈ t.heap.live) : Holds t'.nodes x (F x) := m.nodes ▸ (hF x hx).write (h.lt x hx) _
  refine ⟨Function.update F (BitVec.ofNat 9 t.nnodes) (.node (F l) (F r)), fun x hx => ?_, ?_⟩
  · rcases m.mem_after.1 hx with rfl | hx
    · have hnode : nodeAt t'.nodes (BitVec.ofNat 9 t.nnodes) = internalNode t.nodes l r := by rw [nodeAt, m.toNat_new, m.read_new]
      have hholds := Holds.node (nodes := t'.nodes) (i := BitVec.ofNat 9 t.nnodes) (l := F l) (r := F r)
      rw [hnode, m.toNat_new] at hholds
      rw [Function.update_self]
      exact hholds rfl hl hr (hkeep (m.mem_before.2 (.inl rfl))) (hkeep (m.mem_before.2 (.inr (.inl rfl))))
    · rw [hsame x hx]; exact hkeep (m.mem_before.2 (.inr (.inr hx)))
  · refine (m.after.flatMap_right _).trans (.trans ?_ ((m.before.flatMap_right _).symm.trans hperm))
    rw [List.flatMap_cons, Function.update_self, CodeTree.syms_node, List.flatMap_cons, List.flatMap_cons, List.append_assoc,
      List.flatMap_congr fun x hx => by rw [hsame x hx]]

/-- A turn of the merge loop keeps the forest. -/
theorem Forest.merge (hfits : totalWeight L < 2 ^ 32) (h2 : 2 ≤ t.heap.size) : Forest tie L t' := by
  have hcount := h.count
  have hsize := m.size
  have hnn := m.nnodes
  constructor
  case arena => exact h.arena_merge m hfits
  case count => omega
  case nonempty => omega
  case ordered => exact m.ordered
  case lt =>
    intro x hx
    rcases m.mem_after.1 hx with rfl | hx
    · have := m.toNat_new; omega
    · have := (h.lt_taken m).2.2 x hx; omega
  case nodup => exact m.after.nodup_iff.2 (List.nodup_cons.2 ⟨h.fresh m, (h.nodup_taken m).2.2.2⟩)
  case newest => exact ⟨_, m.mem_after.2 (.inl rfl), by rw [m.toNat_new, hnn]⟩
  case covered => exact fun j => h.covered_merge m
  case orphan => exact fun x hx i => h.orphan_merge m hfits hx
  case heavier => exact fun i h₁ h₂ x => h.heavier_merge m hfits h₁ h₂
  case total => exact h.total_merge m hfits
  case trees => exact h.trees_merge m

end

/-- A turn of the merge loop succeeds, and leaves one root fewer. -/
theorem Forest.mergeOnce {tie : Bool} {L : List Node} {t : TreeWork} (h : Forest tie L t) (hL : L.length ≤ 256)
    (hfits : totalWeight L < 2 ^ 32) (h2 : 2 ≤ t.heap.size) :
    ∃ t', mergeOnce tie t = .ok t' ∧ Forest tie L t' ∧ t'.heap.size = t.heap.size - 1 := by
  have hgrown := h.arena.grown
  have hcount := h.count
  obtain ⟨t', l, r, rest, e, m⟩ := mergeOnce_mergeStep h2 (by omega) (by omega) h.ordered h.lt fun l r rest hp => by
    have := h.total_before hp
    omega
  exact ⟨t', e, h.merge m hfits h2, m.size⟩

/-- The merge loop ends with one root. -/
theorem Forest.mergeLoop {tie : Bool} {L : List Node} {fuel : Nat} {t : TreeWork} (h : Forest tie L t) (hL : L.length ≤ 256)
    (hfits : totalWeight L < 2 ^ 32) (hfuel : t.heap.size ≤ fuel) :
    ∃ t', mergeLoop tie fuel t = .ok t' ∧ Forest tie L t' ∧ t'.heap.size = 1 := by
  induction fuel generalizing t with
  | zero => have := h.nonempty; omega
  | succ fuel ih =>
    have hpos := h.nonempty
    unfold Machine.mergeLoop
    split
    · exact ⟨t, rfl, h, by omega⟩
    · obtain ⟨u, hu, hforest, hsize⟩ := h.mergeOnce hL hfits (by omega)
      rw [hu]
      exact ih hforest (by omega)

theorem map_range_getD {α : Type} (L : List α) (d : α) : (List.range L.length).map (fun i => L.getD i d) = L := by
  apply List.ext_getElem (by simp)
  intro i h₁ h₂
  simp [h₂]

/-- The arena after `make_leaves` on an empty one. -/
theorem read_plantLeaves (tie : Bool) (freq : Table Word 256) (slot : Table NodeIdx 256) (i : Nat) :
    (plantLeaves tie freq (.fill Node.zero) slot).nodes.read Node.zero i = (leavesOf freq).getD i Node.zero := by
  have hL := length_leavesOf_le freq
  refine (Table.read_writeFrom (leavesOf freq) (.fill Node.zero) Node.zero 0 i (by omega)).trans ?_
  split_ifs with hi
  · rfl
  · rw [Table.read_fill, List.getD_eq_default _ _ (by omega)]

/-- `init_heap` puts the numbers of the leaves on the heap. -/
theorem live_plantLeaves (tie : Bool) (freq : Table Word 256) (nodes : Table Node 511) (slot : Table NodeIdx 256) :
    (plantLeaves tie freq nodes slot).heap.live.Perm ((List.range (leavesOf freq).length).map (BitVec.ofNat 9)) := by
  have hL := length_leavesOf_le freq
  refine (Heap.build_live tie _ hL).trans (.of_eq (List.map_congr_left fun k hk => ?_))
  have hk : k < (leavesOf freq).length := List.mem_range.1 hk
  have hlen : ((List.range (leavesOf freq).length).map (BitVec.ofNat 9)).length = (leavesOf freq).length := by simp
  refine (Table.read_writeFrom ((List.range (leavesOf freq).length).map (BitVec.ofNat 9)) slot 0 0 k (by omega)).trans ?_
  rw [if_pos ⟨Nat.zero_le _, by omega⟩]
  simp [hk]

/-- An arena of leaves alone. -/
theorem arena_of_leaves {L : List Node} {nodes : Table Node 511} (h : ∀ i, nodes.read Node.zero i = L.getD i Node.zero) :
    Arena L L.length nodes where
  grown := le_rfl
  leaf i _ := h i
  unused i hi := by rw [h, List.getD_eq_default _ _ hi]
  internal _ _ _ := by omega
  below _ _ _ := by omega
  distinct _ _ _ := by omega
  weight _ _ _ := by omega
  parent _ _ _ _ _ := by omega
  lighterLeft _ _ _ := by omega
  inOrder _ _ _ _ _ := by omega
  bound i := by
    rw [weightAt, h]
    by_cases hi : i < L.length
    · rw [List.getD_eq_getElem _ _ hi]
      exact List.single_le_sum (fun _ _ => Nat.zero_le _) _ (List.mem_map_of_mem (f := fun x : Node => x.w.toNat) (List.getElem_mem hi))
    · rw [List.getD_eq_default _ _ (not_lt.1 hi)]
      exact Nat.zero_le _

/-- The leaves, with their numbers on an ordered heap, are a forest of single leaves (42_tree.md R212, R213). -/
theorem forest_of_leaves {tie : Bool} {L : List Node} {t : TreeWork} (hne : L ≠ []) (hL : L.length ≤ 256)
    (hleaf : ∀ x ∈ L, x.kind = .leaf) (hread : ∀ i, t.nodes.read Node.zero i = L.getD i Node.zero) (hnn : t.nnodes = L.length)
    (hlive : t.heap.live.Perm ((List.range L.length).map (BitVec.ofNat 9))) (hord : t.heap.Ordered tie t.nodes) :
    Forest tie L t := by
  have hpos := List.length_pos_iff.2 hne
  have hsize : t.heap.size = L.length := by simpa using hlive.length_eq
  have hidx {k : Nat} (hk : k < L.length) : (BitVec.ofNat 9 k : NodeIdx).toNat = k := by rw [BitVec.toNat_ofNat]; omega
  have hmem {x : NodeIdx} : x ∈ t.heap.live ↔ x.toNat < L.length := by
    simp only [hlive.mem_iff, List.mem_map, List.mem_range]
    exact ⟨fun ⟨k, hk, e⟩ => e ▸ (hidx hk).trans_lt hk, fun hx => ⟨_, hx, by simp⟩⟩
  have hmap {α : Type} (g : Node → α) :
      ((List.range L.length).map (BitVec.ofNat 9)).map (fun x => g (t.nodes.read Node.zero x.toNat)) = L.map g := by
    conv_rhs => rw [← map_range_getD L Node.zero, List.map_map]
    rw [List.map_map]
    exact List.map_congr_left fun k hk => by simp [hidx (List.mem_range.1 hk), hread]
  constructor
  case arena => rw [hnn]; exact arena_of_leaves hread
  case count => omega
  case nonempty => omega
  case ordered => exact hord
  case lt => exact fun x hx => hnn ▸ hmem.1 hx
  case nodup =>
    refine hlive.nodup_iff.2 (List.nodup_range.map_on fun j hj k hk e => ?_)
    rw [← hidx (List.mem_range.1 hj), ← hidx (List.mem_range.1 hk), e]
  case newest => exact ⟨BitVec.ofNat 9 (L.length - 1), hmem.2 (by rw [hidx] <;> omega), by rw [hidx] <;> omega⟩
  case covered =>
    exact fun j hj => .inl ⟨BitVec.ofNat 9 j, hmem.2 (by rw [hidx] <;> omega), hidx (by omega)⟩
  case orphan => omega
  case heavier => omega
  case total => rw [(hlive.map _).sum_eq, hmap fun x => x.w.toNat]; rfl
  case trees =>
    refine ⟨fun x => .leaf (nodeAt t.nodes x).sym, fun x hx => .leaf ?_, ?_⟩
    · have hx := hmem.1 hx
      rw [nodeAt, hread, List.getD_eq_getElem _ _ hx]
      exact hleaf _ (List.getElem_mem hx)
    · refine (hlive.flatMap_right _).trans (.of_eq ?_)
      rw [← hmap Node.sym, List.map_eq_flatMap (f := fun x : NodeIdx => _)]
      rfl

/-- What the steps of BUILD leave for a table with at least one counted symbol: the tree of 42_tree.md R210 to R217, held at ROOT. -/
structure BuiltTree (freq : Table Word 256) (root : NodeIdx) (t : TreeWork) : Prop where
  arena : Arena (leavesOf freq) t.nnodes t.nodes
  count : t.nnodes = 2 * (leavesOf freq).length - 1
  root_eq : root.toNat = 2 * (leavesOf freq).length - 2
  drained : t.heap.size = 0
  covered : ∀ j, j < root.toNat → ∃ i, (leavesOf freq).length ≤ i ∧ i < t.nnodes ∧ IsChild t.nodes i j
  heaviest : weightAt t.nodes root.toNat = totalWeight (leavesOf freq)
  tree : ∃ T, Holds t.nodes root T ∧ T.syms.Perm ((leavesOf freq).map Node.sym)

/-- BUILD's steps up to the root succeed on an empty arena (42_tree.md R212 to R215). -/
theorem buildTree_spec (tie : Bool) {freq : Table Word 256} (hne : leavesOf freq ≠ []) (hfits : totalWeight (leavesOf freq) < 2 ^ 32)
    (slot : Table NodeIdx 256) :
    ∃ root t, buildTree tie freq (.fill Node.zero) slot = .ok (root, t) ∧ BuiltTree freq root t := by
  have hL := length_leavesOf_le freq
  have hpos := List.length_pos_iff.2 hne
  have hstart : Forest tie (leavesOf freq) (plantLeaves tie freq (.fill Node.zero) slot) :=
    forest_of_leaves hne hL (fun x hx => ((leavesOf_spec freq).leaf x hx).1) (read_plantLeaves tie freq slot) rfl
      (live_plantLeaves tie freq _ slot) (Heap.build_ordered hL)
  obtain ⟨t, ht, h, h1⟩ := hstart.mergeLoop hL hfits le_rfl
  obtain ⟨h', he, hs', hp⟩ := Heap.extractMin_spec tie t.nodes (h := t.heap) (by omega) (by omega)
  obtain ⟨root, hroot⟩ := List.length_eq_one_iff.1 (t.heap.length_live.trans h1)
  have hat : t.heap.at 0 = root := by simpa [hroot] using (hp.mem_iff (a := t.heap.at 0)).2 (by simp)
  have hcount := h.count
  have hnewest : root.toNat + 1 = t.nnodes := by
    obtain ⟨x, hx, e⟩ := h.newest
    rw [hroot, List.mem_singleton] at hx
    exact hx ▸ e
  refine ⟨root, { t with heap := h' }, ?_, ?_⟩
  · unfold buildTree
    simp only [ht, he, hat]
  · exact {
      arena := h.arena
      count := by simp only; omega
      root_eq := by omega
      drained := by simp only; omega
      covered := fun j hj => by
        rcases h.covered j (by omega) with ⟨x, hx, e⟩ | hi
        · rw [hroot, List.mem_singleton] at hx
          subst hx
          omega
        · exact hi
      heaviest := by have := h.total; simpa [hroot] using this
      tree := by
        obtain ⟨F, hF, hperm⟩ := h.trees
        rw [hroot] at hF hperm
        exact ⟨F root, hF root (by simp), by simpa using hperm⟩ }

end Sys2Proof.Machine

namespace Sys2Proof.Machine

/-! ### The codes of a tree (43_codegen.md R240 to R245) -/

/-- The code of each symbol: its path, and for a tree of one symbol the placeholder "0" (43_codegen.md R242). -/
def CodeTree.codes : CodeTree → List (Byte × List Bool)
  | .leaf s => [(s, [false])]
  | .node l r => (CodeTree.node l r).paths

theorem CodeTree.mem_syms_iff_codes {t : CodeTree} {b : Byte} : b ∈ t.syms ↔ ∃ p, (b, p) ∈ t.codes := by
  cases t with
  | leaf s => simp [CodeTree.codes]
  | node l r => exact CodeTree.mem_syms

/-- 43_codegen.md R244. -/
theorem CodeTree.length_code {t : CodeTree} {b : Byte} {p : List Bool} (h : (b, p) ∈ t.codes) :
    1 ≤ p.length ∧ p.length ≤ max 1 (t.syms.length - 1) := by
  cases t with
  | leaf s => simp_all [CodeTree.codes]
  | node l r =>
    have hl := l.syms_length_pos
    have hr := r.syms_length_pos
    have hlt := CodeTree.length_path_lt h
    have hpos := CodeTree.length_path_pos h (by rw [CodeTree.syms_node, List.length_append]; omega)
    omega

/-- 43_codegen.md R245. -/
theorem CodeTree.sym_eq_of_code_prefix {t : CodeTree} {b c : Byte} {p q : List Bool} (hb : (b, p) ∈ t.codes) (hc : (c, q) ∈ t.codes)
    (hpq : p <+: q) : b = c := by
  cases t with
  | leaf s => simp_all [CodeTree.codes]
  | node l r => exact CodeTree.sym_eq_of_prefix hb hc hpq

/-- The tables hold the codes of a tree, and nothing for any other symbol. -/
structure Coded (t : CodeTree) (c : CodeTable) : Prop where
  code : ∀ b p, (b, p) ∈ t.codes → c.entry b = (BitVec.ofNat 8 p.length, codeOf 0 p)
  blank : ∀ b, b ∉ t.syms → c.entry b = (0, 0)

/-- `gen_codes()` over an empty code table succeeds and records the codes of the tree at the root (43_codegen.md R240 to R242). -/
theorem genCodes_spec {nodes : Table Node 511} {root : NodeIdx} {t : CodeTree} (h : Holds nodes root t) (hn : t.syms.Nodup)
    (hlen : t.syms.length ≤ 256) (hroot : t.syms.length = 1 → root = 0) :
    ∃ c, genCodes nodes root t.syms.length ⟨.fill 0, .fill 0⟩ = .ok c ∧ Coded t c := by
  have hblank (b : Byte) : CodeTable.entry ⟨.fill 0, .fill 0⟩ b = (0, 0) := by simp [CodeTable.entry]
  have hsize := t.size_eq
  cases t with
  | leaf s =>
    cases h with | leaf hk =>
    obtain rfl := hroot rfl
    refine ⟨_, if_pos rfl, fun b p hb => ?_, fun b hb => ?_⟩
    · obtain ⟨rfl, rfl⟩ : b = _ ∧ p = [false] := by simpa [CodeTree.codes] using hb
      exact CodeTable.entry_record_same _ _ _ _
    · exact (CodeTable.entry_record_ne _ (by simpa [eq_comm] using hb) _ _).trans (hblank b)
  | node l r =>
    have hl := l.syms_length_pos
    have hr := r.syms_length_pos
    have happ : (CodeTree.node l r).syms.length = l.syms.length + r.syms.length := by simp
    have hdepth : ∀ e ∈ (CodeTree.node l r).paths, 0 + e.2.length ≤ 255 := fun e he => by
      have := CodeTree.length_path_lt he
      omega
    refine ⟨(CodeTree.node l r).record 0 0 ⟨.fill 0, .fill 0⟩, ?_, fun b p hb => ?_, fun b hb => ?_⟩
    · have hfuel : Config.nodeMax = (511 - (CodeTree.node l r).size) + (CodeTree.node l r).size := by simp only [Config.nodeMax]; omega
      rw [genCodes, if_neg (by omega), hfuel, walkCodes_tree h hdepth]
      simp [walkCodes]
    · rw [CodeTree.record_of_mem hb hn, Nat.zero_add]
    · rw [CodeTree.record_of_not_mem hb, hblank]

/-! ### Heavier nodes stand no deeper (43_codegen.md R246) -/

/-- NODE[j] stands `d` steps below the root. -/
inductive AtDepth (nodes : Table Node 511) (N root : Nat) : Nat → Nat → Prop where
  | root : AtDepth nodes N root root 0
  | child {i j d : Nat} : AtDepth nodes N root i d → N ≤ i → IsChild nodes i j → AtDepth nodes N root j (d + 1)

section
variable {L : List Node} {nodes : Table Node 511} {root : Nat}

theorem AtDepth.le_root (h : Arena L (root + 1) nodes) {j d : Nat} (hj : AtDepth nodes L.length root j d) : j ≤ root := by
  induction hj with
  | root => exact le_rfl
  | child _ hN hc ih => exact (h.below _ hN (by omega) _ hc).le.trans ih

/-- Children of a later node weigh no less than those of an earlier one, and the heavier child makes the heavier parent. -/
theorem Arena.parent_lt (h : Arena L (root + 1) nodes) {x y p q : Nat} (hp : L.length ≤ p) (hp' : p ≤ root) (hq : L.length ≤ q)
    (hq' : q ≤ root) (hx : IsChild nodes p x) (hy : IsChild nodes q y) (hlt : weightAt nodes x < weightAt nodes y) :
    p = q ∨ weightAt nodes p < weightAt nodes q := by
  have wp := h.weight p hp (by omega)
  have wq := h.weight q hq (by omega)
  have lp := h.lighterLeft p hp (by omega)
  have lq := h.lighterLeft q hq (by omega)
  rcases lt_trichotomy p q with hpq | hpq | hpq
  · have := h.inOrder p q hp hpq (by omega)
    right
    rcases hx with rfl | rfl <;> rcases hy with rfl | rfl <;> omega
  · exact .inl hpq
  · have := h.inOrder q p hq hpq (by omega)
    rcases hx with rfl | rfl <;> rcases hy with rfl | rfl <;> omega

theorem AtDepth.le_of_weight_lt (h : Arena L (root + 1) nodes) (hroot : ∀ i, weightAt nodes i ≤ weightAt nodes root) {x y d e : Nat}
    (hx : AtDepth nodes L.length root x d) (hy : AtDepth nodes L.length root y e)
    (hxy : x = y ∨ weightAt nodes x < weightAt nodes y) : e ≤ d := by
  induction hx generalizing y e with
  | root =>
    cases hy with
    | root => exact le_rfl
    | child hq hN hc =>
      have := h.below _ hN (by have := hq.le_root h; omega) _ hc
      have := hq.le_root h
      have := hroot y
      omega
  | child hp hN hc ih =>
    cases hy with
    | root => omega
    | child hq hN' hc' =>
      have hp' := hp.le_root h
      have hq' := hq.le_root h
      refine Nat.succ_le_succ (ih hq ?_)
      rcases hxy with rfl | hlt
      · exact .inl (h.parent _ _ _ hN (by omega) hN' (by omega) hc hc')
      · exact h.parent_lt hN hp' hN' hq' hc hc' hlt

/-- The leaf of a symbol stands as deep as its path is long. -/
theorem Holds.atDepth {i : NodeIdx} {t : CodeTree} (ht : Holds nodes i t) (h : Arena L (root + 1) nodes) (hleaf : ∀ x ∈ L, x.kind = .leaf)
    {d : Nat} (hi : AtDepth nodes L.length root i.toNat d) {b : Byte} {p : List Bool} (hb : (b, p) ∈ t.paths) :
    ∃ k, k < L.length ∧ (nodes.read Node.zero k).sym = b ∧ AtDepth nodes L.length root k (d + p.length) := by
  induction ht generalizing d p with
  | @leaf i hk =>
    obtain ⟨rfl, rfl⟩ : b = _ ∧ p = [] := by simpa [CodeTree.paths] using hb
    refine ⟨i.toNat, not_le.1 fun hN => ?_, rfl, hi⟩
    have hint := (h.internal _ hN (by have := hi.le_root h; omega)).1
    rw [← nodeAt, hk] at hint
    cases hint
  | @node i l r hk _ _ _ _ ihl ihr =>
    have hN : L.length ≤ i.toNat := not_lt.1 fun hlt => by
      have hl := hleaf _ (List.getElem_mem hlt)
      rw [nodeAt, h.leaf _ hlt, List.getD_eq_getElem _ _ hlt, hl] at hk
      cases hk
    rcases CodeTree.mem_paths_node.1 hb with ⟨q, hq, rfl⟩ | ⟨q, hq, rfl⟩
    · obtain ⟨k, hk, hs, hd⟩ := ihl (hi.child hN (.inl rfl)) hq
      exact ⟨k, hk, hs, by rwa [List.length_cons, Nat.add_comm q.length, ← Nat.add_assoc]⟩
    · obtain ⟨k, hk, hs, hd⟩ := ihr (hi.child hN (.inr rfl)) hq
      exact ⟨k, hk, hs, by rwa [List.length_cons, Nat.add_comm q.length, ← Nat.add_assoc]⟩

end

end Sys2Proof.Machine

namespace Sys2Proof.Machine

/-! ### MAX_LEN (43_codegen.md R243) -/

/-- The fold of MAX_LEN ends with one of the values, and none is larger. -/
theorem foldl_max_spec (lens : List Byte) (m : Byte) :
    lens.foldl (fun m l => if m < l then l else m) m ∈ m :: lens ∧
    ∀ l ∈ m :: lens, l.toNat ≤ (lens.foldl (fun m l => if m < l then l else m) m).toNat := by
  induction lens generalizing m with
  | nil => simp
  | cons a lens ih =>
    obtain ⟨hmem, hle⟩ := ih (if m < a then a else m)
    rw [List.foldl_cons]
    have hmax : m.toNat ≤ (if m < a then a else m).toNat ∧ a.toNat ≤ (if m < a then a else m).toNat := by
      split_ifs with h <;> rw [BitVec.lt_def] at h <;> omega
    have htop := hle _ List.mem_cons_self
    refine ⟨?_, ?_⟩
    · rcases List.mem_cons.1 hmem with h | h
      · rw [h]; split_ifs <;> simp
      · exact List.mem_cons_of_mem _ (List.mem_cons_of_mem _ h)
    · intro l hl
      rcases List.mem_cons.1 hl with rfl | hl
      · exact hmax.1.trans htop
      rcases List.mem_cons.1 hl with rfl | hl
      · exact hmax.2.trans htop
      · exact hle _ (List.mem_cons_of_mem _ hl)

/-- The entries of a table of 256 are those at the bytes. -/
theorem Table.mem_entries {α : Type} {t : Table α 256} (d : α) {x : α} : x ∈ t.entries ↔ ∃ b : Byte, t.read d b.toNat = x := by
  have hread {i : Nat} (hi : i < t.entries.length) : t.read d i = t.entries[i] := List.getD_eq_getElem _ _ hi
  constructor
  · intro hx
    obtain ⟨i, hi, rfl⟩ := List.mem_iff_getElem.1 hx
    have hlt : i < 256 := t.size_eq ▸ hi
    exact ⟨BitVec.ofNat 8 i, by rw [BitVec.toNat_ofNat, Nat.mod_eq_of_lt hlt, hread hi]⟩
  · rintro ⟨b, rfl⟩
    rw [hread (t.size_eq.symm ▸ b.isLt)]
    exact List.getElem_mem _

theorem maxLenIsLargest_of_eq {t : State} (h : t.maxLen = maxLenOf t.codeLen.entries) : t.MaxLenIsLargest := by
  obtain ⟨hmem, hle⟩ := foldl_max_spec t.codeLen.entries 0
  have hlen (b : Byte) : (t.codeLenAt b).toNat ≤ t.maxLen.toNat := by
    rw [h]; exact hle _ (List.mem_cons_of_mem _ ((Table.mem_entries 0).2 ⟨b, rfl⟩))
  refine ⟨hlen, ?_⟩
  rcases List.mem_cons.1 hmem with h0 | hmem
  · refine ⟨0, BitVec.eq_of_toNat_eq ?_⟩
    have hzero : t.maxLen = 0 := h.trans h0
    have := hlen 0
    rw [hzero] at this ⊢
    exact Nat.le_zero.1 this
  · rw [h]; exact (Table.mem_entries 0).1 hmem

/-! ### What BUILD leaves, read off its tree

`s` gives the frequencies and `t` the tables: BUILD's state before and after, or one state of READY twice. -/

/-- The counters of `s` are those of its table, and `t` holds the tree that BUILD's steps made of it and the codes of that tree. -/
structure HoldsTree (s t : State) (w : TreeWork) (T : CodeTree) : Prop where
  count : s.nsym.toNat = (leavesOf s.freq).length
  total : s.totalLen.toNat = totalWeight (leavesOf s.freq)
  nonempty : leavesOf s.freq ≠ []
  node : t.node = w.nodes
  built : BuiltTree s.freq t.root w
  tree : Holds t.node t.root T
  syms : T.syms.Perm ((leavesOf s.freq).map Node.sym)
  coded : Coded T ⟨t.codeLen, t.codeVal⟩
  maxLen : t.maxLen = maxLenOf t.codeLen.entries

section
variable {s t : State} {w : TreeWork} {T : CodeTree} (h : HoldsTree s t w T)
include h

theorem HoldsTree.leaf {k : Nat} (hk : k < (leavesOf s.freq).length) : t.nodeNo k = (leavesOf s.freq)[k] := by
  rw [State.nodeNo, h.node, h.built.arena.leaf k hk, List.getD_eq_getElem _ _ hk]

theorem HoldsTree.nnodes_eq : w.nnodes = t.root.toNat + 1 := by
  have := h.built.count
  have := h.built.root_eq
  have := List.length_pos_iff.2 h.nonempty
  omega

theorem HoldsTree.leavesInOrder : LeavesInOrder s t := by
  obtain ⟨hleaf, hasc, hcomplete⟩ := leavesOf_spec s.freq
  rw [List.pairwise_iff_getElem] at hasc
  simp only [LeavesInOrder, h.count]
  refine ⟨fun k hk => ?_, fun j k hjk hk => ?_, fun b hb => ?_⟩
  · rw [h.leaf hk]; exact hleaf _ (List.getElem_mem hk)
  · rw [h.leaf hk, h.leaf (hjk.trans hk)]; exact hasc j k _ _ hjk
  · obtain ⟨x, hx, hs⟩ := hcomplete b hb
    obtain ⟨k, hk, rfl⟩ := List.mem_iff_getElem.1 hx
    exact ⟨k, hk, by rw [h.leaf hk, hs]⟩

theorem HoldsTree.internalNodesOverLeaves : InternalNodesOverLeaves s t := by
  have ha := h.built.arena
  have hcount := h.built.count
  have hroot := h.built.root_eq
  simp only [InternalNodesOverLeaves, h.count, State.nodeNo, h.node, ← hcount, ← hroot]
  refine ⟨fun i h₁ h₂ => ?_, fun j hj => ?_, ha.unused⟩
  · obtain ⟨hkind, hsym⟩ := ha.internal i h₁ h₂
    exact ⟨hkind, hsym, ha.below i h₁ h₂ _ (.inl rfl), ha.below i h₁ h₂ _ (.inr rfl), ha.distinct i h₁ h₂, ha.weight i h₁ h₂⟩
  · obtain ⟨i, h₁, h₂, hi⟩ := h.built.covered j hj
    exact ⟨i, ⟨h₁, h₂, hi⟩, fun i' h₁' h₂' hi' => ha.parent i' i j h₁' h₂' h₁ h₂ hi' hi⟩

theorem HoldsTree.lightestMergedFirst : LightestMergedFirst s t := by
  have ha := h.built.arena
  simp only [LightestMergedFirst, h.count, State.nodeNo, h.node, ← h.built.count]
  exact fun i h₁ h₂ => ⟨ha.lighterLeft i h₁ h₂, ha.inOrder i (i + 1) h₁ (Nat.lt_succ_self i)⟩

theorem HoldsTree.rootHeaviest : RootHeaviest s t := by
  simp only [RootHeaviest, State.nodeNo, h.node, h.total]
  exact ⟨BitVec.eq_of_toNat_eq (h.built.heaviest.trans h.total.symm), h.built.arena.bound⟩

/-! The codes. -/

theorem HoldsTree.length_syms : T.syms.length = (leavesOf s.freq).length := by simpa using h.syms.length_eq

theorem HoldsTree.nodup_syms : T.syms.Nodup := h.syms.nodup_iff.2 (leavesOf_spec s.freq).nodup_sym

/-- The symbols of the tree are the counted ones. -/
theorem HoldsTree.mem_syms {b : Byte} : b ∈ T.syms ↔ s.freqAt b ≠ 0 := by
  obtain ⟨hleaf, -, hcomplete⟩ := leavesOf_spec s.freq
  rw [h.syms.mem_iff, List.mem_map]
  refine ⟨?_, hcomplete b⟩
  rintro ⟨x, hx, rfl⟩
  obtain ⟨-, -, -, hw, hne⟩ := hleaf x hx
  exact fun h0 => hne (hw.trans h0)

/-- What the tables hold for a counted symbol: the length and the value of its code. -/
theorem HoldsTree.code {b : Byte} (hb : s.freqAt b ≠ 0) : ∃ p, (b, p) ∈ T.codes ∧ 1 ≤ p.length ∧
    p.length ≤ max 1 (s.nsym.toNat - 1) ∧ (t.codeLenAt b).toNat = p.length ∧ t.codeBits b = p ∧
    (t.codeValAt b).toNat < 2 ^ (t.codeLenAt b).toNat := by
  obtain ⟨p, hp⟩ := CodeTree.mem_syms_iff_codes.1 (h.mem_syms.2 hb)
  have hlen := length_leavesOf_le s.freq
  obtain ⟨h1, h2⟩ := CodeTree.length_code hp
  rw [h.length_syms, ← h.count] at h2
  have hcount := h.count
  obtain ⟨hl, hv⟩ : t.codeLenAt b = BitVec.ofNat 8 p.length ∧ t.codeValAt b = codeOf 0 p := Prod.mk.inj (h.coded.code b p hp)
  have hlen : (t.codeLenAt b).toNat = p.length := by rw [hl, BitVec.toNat_ofNat]; omega
  obtain ⟨hbits, hval⟩ := bitsOf_codeOf (v := 0) (d := 0) (p := p) (by omega) (by decide)
  rw [Nat.zero_add] at hbits hval
  exact ⟨p, hp, h1, h2, hlen, by rw [State.codeBits, hlen, hv, hbits]; rfl, by rwa [hlen, hv]⟩

/-- They hold nothing for any other symbol. -/
theorem HoldsTree.blank {b : Byte} (hb : s.freqAt b = 0) : t.codeLenAt b = 0 ∧ t.codeValAt b = 0 :=
  Prod.mk.inj (h.coded.blank b fun hm => h.mem_syms.1 hm hb)

theorem HoldsTree.codesWithinBounds : CodesWithinBounds s t := by
  have hlen := length_leavesOf_le s.freq
  have hcount := h.count
  have hbound (b : Byte) : (t.codeLenAt b).toNat ≤ max 1 (s.nsym.toNat - 1) := by
    by_cases hb : s.freqAt b = 0
    · rw [(h.blank hb).1]; exact Nat.zero_le _
    · obtain ⟨p, -, -, hp, hl, -⟩ := h.code hb
      omega
  refine ⟨fun b => ⟨fun h0 => by_contra fun hb => ?_, fun hb => (h.blank hb).1⟩, fun h1 b hb => ?_, fun h2 b hb => ?_, ?_, fun b => ?_⟩
  · obtain ⟨p, -, hp, -, hl, -⟩ := h.code hb
    rw [h0] at hl
    exact absurd hl (by simp; omega)
  · obtain ⟨p, -, hp, hp', hl, -⟩ := h.code hb
    omega
  · obtain ⟨p, -, hp, hp', hl, -⟩ := h.code hb
    omega
  · obtain ⟨b, hb⟩ := (maxLenIsLargest_of_eq h.maxLen).2
    exact hb ▸ hbound b
  · by_cases hb : s.freqAt b = 0
    · rw [(h.blank hb).2]; exact Nat.two_pow_pos _
    · obtain ⟨p, -, -, -, -, -, hv⟩ := h.code hb
      exact hv

theorem HoldsTree.prefixFree : PrefixFree s t := by
  intro b c hbc hb hc hpre
  obtain ⟨p, hp, -, -, -, hbits, -⟩ := h.code hb
  obtain ⟨q, hq, -, -, -, hbits', -⟩ := h.code hc
  rw [hbits, hbits'] at hpre
  exact hbc (CodeTree.sym_eq_of_code_prefix hp hq hpre)

theorem HoldsTree.frequentNoLonger : FrequentNoLonger s t := by
  intro b c hb hc hlt
  obtain ⟨p, hp, -, -, hl, -⟩ := h.code hb
  obtain ⟨q, hq, -, -, hl', -⟩ := h.code hc
  rw [hl, hl']
  have ht := h.tree
  cases hT : T with
  | leaf x =>
    rw [hT] at hp hq
    simp_all [CodeTree.codes]
  | node l r =>
    rw [hT] at hp hq ht
    have ha : Arena (leavesOf s.freq) (t.root.toNat + 1) t.node := by rw [← h.nnodes_eq, h.node]; exact h.built.arena
    have hleaf : ∀ x ∈ leavesOf s.freq, x.kind = .leaf := fun x hx => ((leavesOf_spec s.freq).leaf x hx).1
    have hroot (i : Nat) : weightAt t.node i ≤ weightAt t.node t.root.toNat := by
      rw [h.node, h.built.heaviest]; exact h.built.arena.bound i
    have hweight {k : Nat} (hk : k < (leavesOf s.freq).length) : weightAt t.node k = (s.freqAt (t.node.read Node.zero k).sym).toNat := by
      obtain ⟨-, -, -, hw, -⟩ := (leavesOf_spec s.freq).leaf _ (List.getElem_mem hk)
      have hn := h.leaf hk
      rw [State.nodeNo] at hn
      rw [weightAt, hn, hw]
      rfl
    obtain ⟨j, hj, rfl, hd⟩ := ht.atDepth ha hleaf .root hp
    obtain ⟨k, hk, rfl, he⟩ := ht.atDepth ha hleaf .root hq
    have := he.le_of_weight_lt ha hroot hd (.inr (by rw [hweight hk, hweight hj]; exact hlt))
    omega

end

/-- The tables of READY, from the tree they hold. -/
theorem HoldsTree.built_self {s : State} {w : TreeWork} {T : CodeTree} (h : HoldsTree s s w T) (hn : s.nnodes = BitVec.ofNat 10 w.nnodes)
    (he : s.expBits = expBitsOf s.freq.entries s.codeLen.entries) : s.Built := by
  have hlen := length_leavesOf_le s.freq
  have hcount := h.count
  have hnodes := h.built.count
  have hroot := h.built.root_eq
  exact ⟨by rw [hn, BitVec.toNat_ofNat]; omega, by omega, h.leavesInOrder, h.internalNodesOverLeaves, h.lightestMergedFirst,
    h.rootHeaviest, h.codesWithinBounds, h.prefixFree, h.frequentNoLonger, maxLenIsLargest_of_eq h.maxLen, he⟩

/-- BUILD's effect in COLLECT, with something counted: it succeeds, leaves the tables of READY and an empty heap (42_tree.md R210). -/
theorem State.buildCodes_built {s : State} (hc : s.seqPhase = .collect) (hinv : s.CollectInv) (hf : s.FreqInv) (hn : s.nsym ≠ 0) :
    ∃ t, s.buildCodes = .ok t ∧ t.Built ∧ t.heap.size = 0 := by
  obtain ⟨hnode, -, -, hlen, hval, -⟩ := hinv hc
  obtain ⟨htotal, hcount⟩ := hf
  have hcount : s.nsym.toNat = (leavesOf s.freq).length := hcount.trans (length_leavesOf s.freq).symm
  have htotal : s.totalLen.toNat = totalWeight (leavesOf s.freq) := htotal.trans (sum_leavesFrom 0 _).symm
  have hne : leavesOf s.freq ≠ [] := fun e => hn (BitVec.eq_of_toNat_eq (by rw [hcount, e]; rfl))
  have hle := length_leavesOf_le s.freq
  obtain ⟨root, w, hw, hb⟩ := buildTree_spec s.tieUsed hne (htotal ▸ s.totalLen.isLt) s.heap.slot
  obtain ⟨T, hT, hperm⟩ := hb.tree
  have hTlen : T.syms.length = (leavesOf s.freq).length := by simpa using hperm.length_eq
  have hroot := hb.root_eq
  obtain ⟨c, hgen, hcoded⟩ := genCodes_spec hT (hperm.nodup_iff.2 (leavesOf_spec s.freq).nodup_sym) (by omega) fun h1 =>
    BitVec.eq_of_toNat_eq (by rw [hroot, ← hTlen, h1]; rfl)
  have hok : s.buildCodes = .ok { s with
      node := w.nodes, nnodes := BitVec.ofNat 10 w.nnodes, root := root, heap := w.heap, codeLen := c.len, codeVal := c.val
      maxLen := maxLenOf c.len.entries, expBits := expBitsOf s.freq.entries c.len.entries, seqPhase := .ready } := by
    unfold State.buildCodes
    simp only [hnode, hlen, hval, hw, ← hTlen, hgen]
  refine ⟨_, hok, HoldsTree.built_self (w := w) (T := T) ?_ rfl rfl, hb.drained⟩
  exact ⟨hcount, htotal, hne, rfl, hb, hT, hperm, hcoded, rfl⟩

end Sys2Proof.Machine

namespace Sys2Proof.Machine

/-! ### The counters (10_state.md R39) -/

/-- An entry of a table, and what stands before and after it whatever is written there. -/
theorem Table.entries_split {α : Type} {n : Nat} (t : Table α n) (d : α) {i : Nat} (hi : i < n) :
    ∃ l₁ l₂, l₁.length + l₂.length + 1 = n ∧ t.entries = l₁ ++ t.read d i :: l₂ ∧ ∀ v, (t.write i v).entries = l₁ ++ v :: l₂ := by
  have hlt : i < t.entries.length := t.size_eq.symm ▸ hi
  refine ⟨t.entries.take i, t.entries.drop (i + 1), ?_, ?_, fun v => ?_⟩
  · have := t.size_eq; simp; omega
  · rw [Table.read, List.getD_eq_getElem _ _ hlt, List.getElem_cons_drop, List.take_append_drop]
  · exact List.set_eq_take_append_cons_drop.trans (if_pos hlt)

/-- Adding one to a word that is not at its limit. -/
theorem toNat_add_one {n : Nat} {x : BitVec n} (h : x.toNat + 1 < 2 ^ n) : (x + 1#n).toNat = x.toNat + 1 := by
  rw [BitVec.toNat_add, BitVec.toNat_ofNat, Nat.add_mod_mod, Nat.mod_eq_of_lt h]

/-- COUNT keeps TOTAL_LEN and NSYM in step with FREQ; below the limit no counter wraps. -/
theorem freqInv_countByte {s : State} (h : s.FreqInv) (hmax : s.totalLen ≠ Config.totalMax) (b : Byte) : (s.countByte b).FreqInv := by
  obtain ⟨l₁, l₂, hlen, hentries, hwrite⟩ := s.freq.entries_split 0 b.isLt
  have hlimit : s.totalLen.toNat + 1 < 2 ^ 32 := by
    have hne : s.totalLen.toNat ≠ 2 ^ 32 - 1 := fun e => hmax (BitVec.eq_of_toNat_eq e)
    have := s.totalLen.isLt
    omega
  have hc₁ := List.countP_le_length (p := fun f : Word => decide (f ≠ 0)) (l := l₁)
  have hc₂ := List.countP_le_length (p := fun f : Word => decide (f ≠ 0)) (l := l₂)
  have hentries : s.freq.entries = l₁ ++ s.freqAt b :: l₂ := hentries
  rw [State.FreqInv, State.distinct, hentries, List.map_append, List.sum_append, List.map_cons, List.sum_cons, List.countP_append] at h
  rw [State.FreqInv, State.distinct, State.countByte_freq, State.countByte_totalLen, State.countByte_nsym, hwrite, List.map_append,
    List.sum_append, List.map_cons, List.sum_cons, List.countP_append]
  obtain ⟨htotal, hnsym⟩ := h
  have hinc : (s.freqAt b + 1).toNat = (s.freqAt b).toNat + 1 := toNat_add_one (by omega)
  have hpos : s.freqAt b + 1 ≠ 0 := fun e => by rw [e] at hinc; cases hinc
  rw [List.countP_cons_of_pos (p := fun f : Word => decide (f ≠ 0)) (decide_eq_true hpos)]
  refine ⟨?_, ?_⟩
  · exact (toNat_add_one hlimit).trans (by omega)
  · split_ifs with hz
    · rw [List.countP_cons_of_neg (by simpa using hz)] at hnsym
      exact (toNat_add_one (by omega)).trans (by omega)
    · rw [List.countP_cons_of_pos (p := fun f : Word => decide (f ≠ 0)) (decide_eq_true hz)] at hnsym
      exact hnsym

/-! ### The packer (10_state.md R43, R45) -/

/-- ACC holds no more than BITCNT bits. -/
abbrev State.AccFits (s : State) : Prop := s.acc.toNat < 2 ^ s.bitcnt.toNat

theorem shiftIn_eq_shiftConcat (acc : Byte) (b : Bool) : shiftIn acc b = acc.shiftConcat b := by
  apply BitVec.eq_of_getLsbD_eq
  intro k hk
  rw [getLsbD_shiftIn, BitVec.getLsbD_shiftConcat]
  simp [hk]

theorem accFits_writeBit {s : State} (h : s.AccFits) (b : Bool) : (s.writeBit b).AccFits := by
  unfold State.writeBit
  split
  · exact Nat.one_pos
  · rename_i hne
    have hlt : s.bitcnt.toNat < 7 := by
      have hne : s.bitcnt.toNat ≠ 7 := fun e => hne (BitVec.eq_of_toNat_eq e)
      have := s.bitcnt.isLt
      omega
    have hcnt : (s.bitcnt + 1).toNat = s.bitcnt.toNat + 1 := toNat_add_one (by omega)
    rw [State.AccFits, shiftIn_eq_shiftConcat, hcnt]
    exact BitVec.toNat_shiftConcat_lt_of_lt (by omega) h

theorem accFits_flushHeld {s : State} (h : s.AccFits) : s.flushHeld.AccFits := by
  unfold State.flushHeld
  split
  · exact h
  · exact Nat.one_pos

/-- What a step of the packer puts into OUTQ and counts in OUT_BYTES: nothing, or one byte the FIFO has room for. -/
def Emits (s t : State) : Prop :=
  (t.outq = s.outq ∧ t.outBytes = s.outBytes) ∨
  (s.fifoFull = false ∧ ∃ b, t.outq = s.outq ++ [b] ∧ t.outBytes = s.outBytes + 1)

theorem Emits.length_le {s t : State} (h : Emits s t) (hq : s.outq.length ≤ s.params.outFifoDepth) :
    t.outq.length ≤ s.params.outFifoDepth := by
  rcases h with ⟨e, -⟩ | ⟨hroom, b, e, -⟩
  · rwa [e]
  · have hroom : s.outq.length < s.params.outFifoDepth := not_le.1 (of_decide_eq_false hroom)
    rw [e, List.length_append]
    exact hroom

theorem Emits.outBytes {s t : State} (h : Emits s t) {n : Nat} (hb : s.outBytes = BitVec.ofNat 64 (n + s.outq.length)) :
    t.outBytes = BitVec.ofNat 64 (n + t.outq.length) := by
  rcases h with ⟨e, e'⟩ | ⟨-, b, e, e'⟩
  · rw [e, e', hb]
  · rw [e, e', hb, List.length_append, ← Nat.add_assoc, BitVec.ofNat_add (n + s.outq.length)]
    rfl

theorem emits_writeBit {s : State} (h : s.bitcnt ≠ 7 ∨ s.fifoFull = false) (b : Bool) : Emits s (s.writeBit b) := by
  unfold State.writeBit
  split
  · rename_i h7
    exact .inr ⟨h.resolve_left (not_not.2 h7), _, rfl, rfl⟩
  · exact .inl ⟨rfl, rfl⟩

theorem emits_flushHeld {s : State} (h : s.bitcnt = 0 ∨ s.fifoFull = false) : Emits s s.flushHeld := by
  unfold State.flushHeld
  split
  · exact .inl ⟨rfl, rfl⟩
  · rename_i h0
    exact .inr ⟨h.resolve_left h0, _, rfl, rfl⟩

/-- What the packer's registers are: everything else is as in `s`. -/
abbrev PackerAlone (s t : State) : Prop :=
  t = { s with
    flight := t.flight, acc := t.acc, bitcnt := t.bitcnt, lastPad := t.lastPad, dataBits := t.dataBits, outBytes := t.outBytes
    encCount := t.encCount, outq := t.outq }

theorem packerAlone_writeBit (s : State) (b : Bool) (f : Flight) : PackerAlone s { s.writeBit b with flight := f } := by
  unfold State.writeBit; split <;> rfl

theorem packerAlone_flushHeld (s : State) (f : Flight) : PackerAlone s { s.flushHeld with flight := f } := by
  unfold State.flushHeld; split <;> rfl

/-- A step of the core in READY is the packer's. -/
theorem coreStep_ready {s t : State} (hfits : s.flightFits = true) (hr : s.seqPhase = .ready) (h : coreStep s = .ok t) :
    PackerAlone s t ∧ t.flightFits = true ∧ (s.AccFits → t.AccFits) ∧ Emits s t := by
  have hnot {f : Flight} (hf : s.flight = f) : (∀ b, f ≠ .count b) ∧ f ≠ .build := by
    refine ⟨fun b e => ?_, fun e => ?_⟩ <;> simp [State.flightFits, hf, e, hr] at hfits
  rcases coreStep_cases h with ⟨-, rfl⟩ | ⟨b, hf, -⟩ | ⟨u, hf, -⟩ | ⟨n, e, -, rfl⟩ | ⟨b, bs, n, e, -, -, -, rfl⟩ |
    ⟨b, bs, n, e, -, hc, rfl⟩ | ⟨-, -, -, rfl⟩ | ⟨-, hc, rfl⟩
  · exact ⟨rfl, hfits, id, .inl ⟨rfl, rfl⟩⟩
  · exact absurd rfl ((hnot hf).1 b)
  · exact absurd rfl (hnot hf).2
  · exact ⟨rfl, rfl, id, .inl ⟨rfl, rfl⟩⟩
  · exact ⟨rfl, hfits, id, .inl ⟨rfl, rfl⟩⟩
  · exact ⟨packerAlone_writeBit s b _, by simp [State.flightFits, hr], fun ha => accFits_writeBit ha b, emits_writeBit hc b⟩
  · exact ⟨rfl, hfits, id, .inl ⟨rfl, rfl⟩⟩
  · exact ⟨packerAlone_flushHeld s _, rfl, accFits_flushHeld, emits_flushHeld hc⟩

/-- A step of the core in COLLECT counts a byte or builds. -/
theorem coreStep_collect {s t : State} (hfits : s.flightFits = true) (hc : s.seqPhase = .collect) (h : coreStep s = .ok t) :
    t = s ∨ (∃ b, s.flight = .count b ∧ s.totalLen ≠ Config.totalMax ∧ t = { s.countByte b with flight := .idle }) ∨
    (s.nsym ≠ 0 ∧ ∃ u, s.buildCodes = .ok u ∧ t = { u with flight := .idle }) := by
  rcases coreStep_cases h with ⟨-, rfl⟩ | ⟨b, hf, rfl⟩ | ⟨u, hf, hu, rfl⟩ | ⟨n, e, hf, -⟩ | ⟨b, bs, n, e, -, -, -, rfl⟩ |
    ⟨b, bs, n, e, hf, -⟩ | ⟨-, -, -, rfl⟩ | ⟨hf, -⟩
  · exact .inl rfl
  · simp only [State.flightFits, hf, decide_eq_true_eq] at hfits
    exact .inr (.inl ⟨b, hf, hfits.2, rfl⟩)
  · simp only [State.flightFits, hf, decide_eq_true_eq] at hfits
    exact .inr (.inr ⟨hfits.2, u, hu, rfl⟩)
  · simp [State.flightFits, hf, hc] at hfits
  · exact .inl rfl
  · simp [State.flightFits, hf, hc] at hfits
  · exact .inl rfl
  · simp [State.flightFits, hf, hc] at hfits

/-! ### What the core keeps -/

theorem coreInv_popOut {s : State} (h : s.CoreInv) : s.popOut.CoreInv := by
  cases hq : s.outq with
  | nil => rwa [State.popOut_nil hq]
  | cons b q =>
    obtain ⟨hwf, hfreq, hfits, hacc, hlen, hheap, hcol, hnsym, herr⟩ := h
    rw [State.popOut_cons hq]
    refine ⟨hwf, hfreq, hfits, hacc, ?_, hheap, fun hc => ?_, hnsym, herr⟩
    · rw [hq, List.length_cons] at hlen
      exact (Nat.lt_of_succ_le hlen).le
    · obtain ⟨-, -, -, -, -, -, -, -, -, -, -, -, -, hempty⟩ := hcol hc
      rw [hq] at hempty
      cases hempty

theorem Prepared.coreInv {s u : State} (h : Prepared s u) (hs : s.CoreInv) : u.CoreInv := by
  induction h with
  | start => exact hs
  | host q p rd f d b _ ih => exact ih
  | pop _ ih => exact coreInv_popOut ih
  | raise c w _ _ hc ih =>
    obtain ⟨hwf, hfreq, hfits, hacc, hlen, hheap, hcol, hnsym, -⟩ := ih
    exact ⟨hwf, hfreq, hfits, hacc, hlen, hheap, hcol, hnsym, fun e => absurd e hc⟩
  | launch f _ _ _ _ hf ih =>
    obtain ⟨hwf, hfreq, -, hacc, hlen, hheap, hcol, hnsym, herr⟩ := ih
    exact ⟨hwf, hfreq, hf, hacc, hlen, hheap, hcol, hnsym, herr⟩
  | build _ _ _ hf _ ih =>
    obtain ⟨hwf, hfreq, -, hacc, hlen, hheap, hcol, hnsym, herr⟩ := ih
    exact ⟨hwf, hfreq, hf, hacc, hlen, hheap, hcol, hnsym, herr⟩

/-- BUILD's effect, from the invariant: the tables of READY, an empty heap, and nothing else. -/
theorem State.CoreInv.built {s u : State} (h : s.CoreInv) (hc : s.seqPhase = .collect) (hn : s.nsym ≠ 0) (hu : s.buildCodes = .ok u) :
    u.Built ∧ u.heap.size = 0 := by
  obtain ⟨-, hfreq, -, -, -, -, hcol, -⟩ := h
  obtain ⟨v, hv, hb⟩ := State.buildCodes_built hc hcol hfreq hn
  obtain rfl : v = u := Except.ok.inj (hv.symm.trans hu)
  exact hb

theorem coreInv_coreStep {s t : State} (hs : s.CoreInv) (h : coreStep s = .ok t) : t.CoreInv := by
  obtain ⟨hwf, hfreq, hfits, hacc, hlen, hheap, hcol, hnsym, herr⟩ := hs
  cases hp : s.seqPhase with
  | ready =>
    obtain ⟨halone, hfits', hacc', hemit⟩ := coreStep_ready hfits hp h
    have hacc' := hacc' hacc
    have hlen' := hemit.length_le hlen
    have hready : t.seqPhase = .ready := by rw [halone]; exact hp
    rw [halone] at hfits' hready ⊢
    exact ⟨hwf, hfreq, hfits', hacc', hlen', hheap, fun e => absurd (hready.symm.trans e) (by decide), hnsym, herr⟩
  | collect =>
    rcases coreStep_collect hfits hp h with rfl | ⟨b, -, hmax, rfl⟩ | ⟨hn, u, hu, rfl⟩
    · exact ⟨hwf, hfreq, hfits, hacc, hlen, hheap, hcol, hnsym, herr⟩
    · exact ⟨hwf, freqInv_countByte hfreq hmax b, rfl, hacc, hlen, hheap, hcol, fun e => absurd (hp.symm.trans e) (by decide), herr⟩
    · have hheap' := (State.CoreInv.built ⟨hwf, hfreq, hfits, hacc, hlen, hheap, hcol, hnsym, herr⟩ hp hn hu).2
      rw [State.buildCodes_frame hu]
      exact ⟨hwf, hfreq, rfl, hacc, hlen, hheap', nofun, fun _ => hn, herr⟩

/-! ### The whole invariant -/

theorem Prepared.inv {s u : State} (h : Prepared s u) (hs : s.Inv) : u.Inv := by
  have hcore := h.coreInv hs.1
  refine ⟨hcore, ?_⟩
  clear hcore
  induction h with
  | start => exact hs.2
  | host q p rd f d b _ ih => exact ih
  | @pop u _ ih =>
    cases hq : u.outq with
    | nil => rwa [State.popOut_nil hq]
    | cons b q =>
      obtain ⟨hbuilt, htie, hout⟩ := ih
      rw [State.popOut_cons hq]
      refine ⟨hbuilt, htie, hout.trans ?_⟩
      rw [hq, List.length_append, List.length_cons, List.length_singleton, Nat.add_right_comm, Nat.add_assoc]
  | raise c w _ _ _ ih => exact ih
  | launch f _ _ hf _ _ ih =>
    obtain ⟨hbuilt, htie, hout⟩ := ih
    exact ⟨hbuilt, fun hc _ => htie hc (by rw [hf]; simp), hout⟩
  | build _ _ _ _ _ ih =>
    obtain ⟨hbuilt, htie, hout⟩ := ih
    exact ⟨hbuilt, fun _ hne => absurd rfl hne, hout⟩

theorem inv_coreStep {s t : State} (hs : s.Inv) (h : coreStep s = .ok t) : t.Inv := by
  refine ⟨coreInv_coreStep hs.1 h, ?_⟩
  obtain ⟨hcore, hbuilt, htie, hout⟩ := hs
  have ⟨_, _, hfits, _⟩ := hcore
  cases hp : s.seqPhase with
  | ready =>
    obtain ⟨halone, -, -, hemit⟩ := coreStep_ready hfits hp h
    have hout' := hemit.outBytes hout
    rw [halone] at hout' ⊢
    exact ⟨hbuilt, fun e => absurd (hp.symm.trans e) (by decide), hout'⟩
  | collect =>
    rcases coreStep_collect hfits hp h with rfl | ⟨b, hf, -, rfl⟩ | ⟨hn, u, hu, rfl⟩
    · exact ⟨hbuilt, htie, hout⟩
    · exact ⟨fun e => absurd (hp.symm.trans e) (by decide), fun hc _ => htie hc (by rw [hf]; simp), hout⟩
    · have hb := (hcore.built hp hn hu).1
      rw [State.buildCodes_frame hu] at hb ⊢
      exact ⟨fun _ => hb, nofun, hout⟩

/-- What every prepared state and every step of the core keep, and what CLEAR leaves, every step keeps. -/
theorem step_induct {P : State → Prop} (hprep : ∀ {s u}, Prepared s u → P s → P u) (hcore : ∀ {s t}, P s → coreStep s = .ok t → P t)
    (hclear : ∀ s : State, P s → P s.clear ∧ P s.resetEvent) {s t : State} (hs : P s) (h : step s = .next t) : P t := by
  rcases step_cases h with ⟨-, u, ⟨q, p, rfl⟩, ht⟩ | ⟨u, hu, k, hk⟩
  · have hu := hprep (Prepared.start.host q p s.hostRd s.file s.draws s.tie) hs
    rcases ht with rfl | rfl
    · exact (hclear _ hu).1
    · exact (hclear _ hu).2
  · exact coreSteps_induct (fun _ _ => hcore) (hprep hu hs) hk

/-- Settles O53: each way a step changes the state keeps either invariant; CLEAR and reset leave the values of reset. -/
theorem stepKeepsTheInvariant : Obligations.StepKeepsTheInvariant :=
  ⟨fun _ _ => step_induct Prepared.coreInv coreInv_coreStep fun _ hs => ⟨(inv_resetAt hs.1).1, (inv_resetAt hs.1).1⟩,
    fun _ _ => step_induct Prepared.inv inv_coreStep fun _ hs => ⟨inv_resetAt hs.1.1, inv_resetAt hs.1.1⟩⟩

end Sys2Proof.Machine

namespace Sys2Proof.Machine

/-! ### The words of the commands (30_encoding.md R122 to R125) -/

/-- The fields of a word of format C1. -/
theorem encodeC1_fields (op byte : Byte) :
    (encodeC1 op byte).extractLsb' 0 8 = op ∧ (encodeC1 op byte).extractLsb' 8 8 = byte ∧ (encodeC1 op byte).extractLsb' 16 16 = 0 := by
  refine ⟨?_, ?_, ?_⟩ <;> ext k hk <;> grind [encodeC1]

/-- The fields of a word of format C2. -/
theorem encodeC2_fields (op : Byte) (n : BitVec 5) (r : BitVec 16) :
    (encodeC2 op n r).extractLsb' 0 8 = op ∧ (encodeC2 op n r).extractLsb' 8 5 = n ∧ (encodeC2 op n r).extractLsb' 13 3 = 0 ∧
    (encodeC2 op n r).extractLsb' 16 16 = r := by
  refine ⟨?_, ?_, ?_, ?_⟩ <;> ext k hk <;> grind [encodeC2]

/-- A well-formed command is read back from its own word. -/
theorem decode_encode {i : Instr} (h : i.wellFormed = true) : decode (encode i) = .ok i := by
  cases i with
  | nop => rfl
  | clear => rfl
  | build => rfl
  | flush => rfl
  | count b =>
    obtain ⟨hop, hbyte, hzero⟩ := encodeC1_fields 0x02 b
    rw [encode, decode, hop]
    exact (if_pos hzero).trans (by rw [hbyte])
  | encode b =>
    obtain ⟨hop, hbyte, hzero⟩ := encodeC1_fields 0x04 b
    rw [encode, decode, hop]
    exact (if_pos hzero).trans (by rw [hbyte])
  | packRaw n r =>
    have hn : nbitsLegal n = true := h
    obtain ⟨hop, hnbits, hzero, hraw⟩ := encodeC2_fields 0x06 n r
    rw [encode, decode, hop]
    exact (if_neg (not_not.2 hzero)).trans (by rw [hnbits, hraw, if_pos hn])

end Sys2Proof.Machine

namespace Sys2Proof.Machine

/-! ### A step that makes an access of the window (20_memory.md R85, R86) -/

/-- The step of an access is the access, taken off the host's list and its pace set. -/
theorem step_access {s : State} {a : HostAccess} {rest : List HostAccess} (hq : s.hostq = a :: rest) :
    step s = hostStep a { s with hostq := rest, pace := a.pace } := by
  unfold step; rw [hq]

/-- The step of a read in the window: the register is read, the host keeps the value, the core goes on. -/
theorem step_read {s : State} {off : Nat} {p : Pace} {rest : List HostAccess} (hlt : off < 0x8000) (hal : off % 4 = 0)
    (hq : s.hostq = ⟨.read (s.params.huffBase + off) 4, p⟩ :: rest) {t : State} {v : Word}
    (hr : hostRead (regAt off) { s with hostq := rest, pace := p } = (t, v)) :
    step s = settle (advance { t with hostRd := t.hostRd ++ [v] }) := by
  rw [step_access hq]
  simp only [hostStep, accessOffset_base s.params hlt hal, hr]

/-- The step of a write in the window. -/
theorem step_write {s : State} {off : Nat} {v : Word} {p : Pace} {rest : List HostAccess} (hlt : off < 0x8000) (hal : off % 4 = 0)
    (hq : s.hostq = ⟨.write (s.params.huffBase + off) 4 v, p⟩ :: rest) :
    step s = hostWrite (regAt off) v { s with hostq := rest, pace := p } := by
  rw [step_access hq]
  simp only [hostStep, accessOffset_base s.params hlt hal]

/-- Settles O7: the write is of CMD, and what it writes is decoded and run. -/
theorem stepRunsTheDecodedCommand : Obligations.StepRunsTheDecodedCommand := by
  intro s w i p rest hq hw
  calc step s = command w { s with hostq := rest, pace := p } := (step_access hq).trans (hostStep_command _ w p)
    _ = exec i { s with hostq := rest, pace := p } := by rw [command, hw]

/-- Settles O8: the word placed is the command's own, which decodes to it. -/
theorem fetchedCommandIsTheOneRun : Obligations.FetchedCommandIsTheOneRun := by
  intro s i hi
  have hword : BitVec.ofNat 32 ((encode i).toNat % 2 ^ 32) = encode i := by
    rw [Nat.mod_eq_of_lt (encode i).isLt, BitVec.ofNat_toNat, BitVec.setWidth_eq]
  exact stepRunsTheDecodedCommand (s.withFetchWord 32 (encode i).toNat) (encode i) i .full s.hostq
    (by rw [State.withFetchWord, hword]; rfl) (decode_encode hi)

/-- An access is refused unless it is a whole word at a multiple of 4 inside the window. -/
theorem accessOffset_refuses {p : Params} (hp : p.wf) {addr width : Nat}
    (h : ¬ (p.huffBase ≤ addr ∧ addr < p.huffBase + 0x8000 ∧ width = 4 ∧ addr % 4 = 0)) :
    ∃ r, accessOffset p addr width = .error r := by
  cases ha : accessOffset p addr width with
  | error r => exact ⟨r, rfl⟩
  | ok off =>
    obtain ⟨hlo, hhi, hwidth, hal, hoff⟩ := accessOffset_ok.1 ha
    have hbase : p.huffBase % 0x8000 = 0 := hp.1
    exact absurd ⟨hlo, hhi, hwidth, by omega⟩ h

/-- Settles O44: the offset of such an access is refused, for a read and a write alike. -/
theorem onlyWholeWordsInTheWindowAreTaken : Obligations.OnlyWholeWordsInTheWindowAreTaken := by
  intro s hp addr width v p rest h
  obtain ⟨r, hr⟩ := accessOffset_refuses hp h
  refine ⟨fun hq => ⟨r, ?_⟩, fun hq => ⟨r, ?_⟩⟩
  · rw [step_access hq]; simp only [hostStep, hr]
  · rw [step_access hq]; simp only [hostStep, hr]

end Sys2Proof.Machine

namespace Sys2Proof.Machine

/-! ### What a register read comes to (20_memory.md R85, R88, R90) -/

/-- A read of OUT_DATA pops, whether or not a command is in flight. -/
theorem hostRead_outData (s : State) : hostRead .outData s = (s.popOut, s.regValue .outData) := if_pos rfl

/-- A read of any other register is exact with BUSY = 0, and of some also with BUSY = 1. -/
theorem hostRead_exact {r : Reg} {s : State} (hr : r ≠ .outData) (h : s.busy = false ∨ r.exactWhileBusy = true) :
    hostRead r s = (s, s.regValue r) := by
  rw [hostRead, if_neg hr, if_neg (by rcases h with h | h <;> simp [h])]

/-- Every other read with BUSY = 1 draws a free value. -/
theorem hostRead_free {r : Reg} {s : State} (hb : s.busy = true) (hr : r.exactWhileBusy = false) :
    hostRead r s = ({ s with draws := s.draws + 1 }, Config.busyRead s.draws) := by
  have hne : r ≠ .outData := by rintro rfl; cases hr
  rw [hostRead, if_neg hne, if_pos (by simp [hb, hr])]

/-- With BUSY = 0 every read returns the register's value. -/
theorem hostRead_value {s : State} (hb : s.busy = false) (r : Reg) : (hostRead r s).2 = s.regValue r := by
  by_cases hr : r = .outData
  · rw [hr, hostRead_outData]
  · rw [hostRead_exact hr (.inl hb)]

/-- The registers that read exactly with BUSY = 1 all have an offset of their own (20_memory.md R82, R90). -/
theorem regAt_mem_table {off : Nat} (h : (regAt off).exactWhileBusy = true) : (off, regAt off) ∈ registerTable := by
  unfold regAt at h ⊢
  split at h
  · rcases hl : registerTable.lookup off with _ | r
    · rw [hl] at h; cases h
    · obtain ⟨l₁, l₂, hsplit, -⟩ := List.lookup_eq_some_iff.1 hl
      rw [if_pos ‹_›, Option.getD_some, hsplit]
      simp
  · split_ifs at h <;> cases h

/-- The offsets of the registers that read exactly with BUSY = 1. -/
theorem offset_of_exactWhileBusy {off : Nat} (h : (regAt off).exactWhileBusy = true) :
    off ∈ [0x0000, 0x0004, 0x0008, 0x000C, 0x0010, 0x0014, 0x0018, 0x0060, 0x0064] := by
  have key : ∀ e ∈ registerTable, e.2.exactWhileBusy = true →
      e.1 ∈ [0x0000, 0x0004, 0x0008, 0x000C, 0x0010, 0x0014, 0x0018, 0x0060, 0x0064] := by decide
  exact key _ (regAt_mem_table h) h

/-- CTRL stands at one offset alone. -/
theorem regAt_eq_ctrl {off : Nat} (h : regAt off = .ctrl) : off = 0x0008 := by
  have hmem : (off, regAt off) ∈ registerTable := regAt_mem_table (by rw [h]; rfl)
  simpa [registerTable, h] using hmem

/-- OUT_DATA stands at one offset alone. -/
theorem regAt_eq_outData {off : Nat} (h : regAt off = .outData) : off = 0x0060 := by
  have hmem : (off, regAt off) ∈ registerTable := regAt_mem_table (by rw [h]; rfl)
  simpa [registerTable, h] using hmem

/-- The reserved offsets (20_memory.md R84). -/
theorem regAt_reserved {off : Nat}
    (h : 0x0068 ≤ off ∧ off < 0x0400 ∨ 0x0C00 ≤ off ∧ off < 0x1000 ∨ 0x3000 ≤ off ∧ off < 0x4000 ∨ 0x6000 ≤ off) :
    regAt off = .reserved := by
  unfold regAt
  rcases h with ⟨hlo, hhi⟩ | ⟨hlo, hhi⟩ | ⟨hlo, hhi⟩ | hlo
  · have hnone : registerTable.lookup off = none := by
      have key : ∀ e ∈ registerTable, e.1 < 0x0068 := by decide
      refine List.lookup_eq_none_iff.2 fun e he => bne_iff_ne.2 ?_
      have := key e he
      omega
    rw [if_pos hhi, hnone, Option.getD_none]
  · rw [if_neg (by omega), if_neg (by omega), if_neg (by omega), if_pos hhi]
  · rw [if_neg (by omega), if_neg (by omega), if_neg (by omega), if_neg (by omega), if_neg (by omega), if_pos hhi]
  · rw [if_neg (by omega), if_neg (by omega), if_neg (by omega), if_neg (by omega), if_neg (by omega), if_neg (by omega),
      if_neg (by omega)]

/-- Settles O45: such a read leaves the state, or counts one more free value. -/
theorem readsLeaveTheCoreAlone : Obligations.ReadsLeaveTheCoreAlone := by
  intro s off p rest hlt hal hne hq
  have hreg : regAt off ≠ .outData := fun e => hne (regAt_eq_outData e)
  by_cases hexact : s.busy = false ∨ (regAt off).exactWhileBusy = true
  · exact ⟨_, s.draws, step_read hlt hal hq (hostRead_exact hreg hexact)⟩
  · obtain ⟨hbusy, hfree⟩ := not_or.1 hexact
    exact ⟨_, s.draws + 1, step_read hlt hal hq (hostRead_free (Bool.not_eq_false _ ▸ hbusy) (Bool.eq_false_iff.2 hfree))⟩

/-- The value of OUT_DATA with a byte in OUTQ (20_memory.md R88). -/
theorem regValue_outData_cons {s : State} {b : Byte} {q : List Byte} (h : s.outq = b :: q) :
    s.regValue .outData = 0x00000100 ||| b.setWidth 32 := by
  have hlayout : ∀ b : Byte, 0#23 ++ 1#1 ++ b = 0x00000100 ||| b.setWidth 32 := by decide
  rw [State.regValue, h]
  exact hlayout b

/-- The value of OUT_DATA with OUTQ empty (20_memory.md R88). -/
theorem regValue_outData_nil {s : State} (h : s.outq = []) : s.regValue .outData = 0 := by
  rw [State.regValue, h]

/-- A read of OUT_DATA with OUTQ empty changes nothing. -/
theorem hostRead_outData_nil {s : State} (h : s.outq = []) : hostRead .outData s = (s, 0) := by
  rw [hostRead_outData, State.popOut_nil h, regValue_outData_nil h]

/-- A read of OUT_DATA with a byte in OUTQ takes the head. -/
theorem hostRead_outData_cons {s : State} {b : Byte} {q : List Byte} (h : s.outq = b :: q) :
    hostRead .outData s = ({ s with outq := q, hostOut := s.hostOut ++ [b], sessionOut := s.sessionOut ++ [b] },
      0x00000100 ||| b.setWidth 32) := by
  rw [hostRead_outData, State.popOut_cons h, regValue_outData_cons h]

/-- Settles O46: OUT_DATA pops at any time, and its value is that of the head. -/
theorem outDataPopsTheHead : Obligations.OutDataPopsTheHead := by
  intro s p rest hq
  exact ⟨fun h => step_read (by decide) (by decide) hq (hostRead_outData_nil h),
    fun b q h => step_read (by decide) (by decide) hq (hostRead_outData_cons h)⟩

/-- Settles O50: the offsets of the registers that are exact are those listed, with OUT_DATA among them. -/
theorem busyReadsAreExactOrFree : Obligations.BusyReadsAreExactOrFree := by
  intro s off hb _ _
  refine ⟨fun hmem => ?_, fun h => ?_, fun hmem => ?_⟩
  · have key : ∀ o ∈ [0x0000, 0x0004, 0x0008, 0x000C, 0x0010, 0x0014, 0x0018, 0x0064],
        regAt o ≠ .outData ∧ (regAt o).exactWhileBusy = true := by decide
    obtain ⟨hne, hexact⟩ := key off hmem
    exact hostRead_exact hne (.inr hexact)
  · rw [h]; exact hostRead_outData s
  · exact hostRead_free hb (Bool.eq_false_iff.2 fun h => hmem (offset_of_exactWhileBusy h))

/-- Settles O51: CTRL and CMD each stand at one offset, and a reserved offset has no register. -/
theorem writesTouchOnlyCtrlAndCmd : Obligations.WritesTouchOnlyCtrlAndCmd := by
  intro s off v p rest hlt hal hq
  rw [step_write hlt hal hq, hostWrite]
  refine ⟨fun h => ?_, fun hctrl hcmd => ?_, fun hb hres => ?_⟩
  · rw [h]; exact if_pos rfl
  · rw [if_neg fun e => hctrl (regAt_eq_ctrl e), if_neg fun e => hcmd (regAt_eq_cmd e)]
  · rw [regAt_reserved hres]; exact hostRead_exact (by decide) (.inl hb)

end Sys2Proof.Machine

namespace Sys2Proof.Machine

/-! ### The table windows (20_memory.md R83) -/

theorem regAt_freq {i : Nat} (hi : i < 256) : regAt (0x0400 + 4 * i) = .freq i := by
  rw [regAt, if_neg (by omega), if_pos (by omega)]
  congr 1; omega

theorem regAt_codeLen {i : Nat} (hi : i < 256) : regAt (0x0800 + 4 * i) = .codeLen i := by
  rw [regAt, if_neg (by omega), if_neg (by omega), if_pos (by omega)]
  congr 1; omega

theorem regAt_codeBits {i k : Nat} (hi : i < 256) (hk : k < 8) : regAt (0x1000 + 32 * i + 4 * k) = .codeBits i k := by
  rw [regAt, if_neg (by omega), if_neg (by omega), if_neg (by omega), if_neg (by omega), if_pos (by omega)]
  congr 1 <;> omega

theorem regAt_node {i f : Nat} (hi : i ≤ 511) (hf : f < 4) : regAt (0x4000 + 16 * i + 4 * f) = .node i f := by
  rw [regAt, if_neg (by omega), if_neg (by omega), if_neg (by omega), if_neg (by omega), if_neg (by omega), if_neg (by omega),
    if_pos (by omega)]
  congr 1 <;> omega

/-- Bit 255, which a code does not have, reads 0. -/
theorem extractLsb'_setWidth_code (v : Code) (k : Nat) :
    v.extractLsb' (32 * k) 32 = (v.setWidth 256).extractLsb' (32 * k) 32 := by
  ext j hj
  grind

/-- The words of a node in the arena. -/
theorem regValue_node {s : State} {i : Nat} (h : i < s.nnodes.toNat) (hi : i < 511) (f : Nat) :
    s.regValue (.node i f) = (s.nodeNo i).word f :=
  if_neg (by omega)

/-- Word 1 of a node: KIND in bit 16, SYM below. -/
theorem word_one (n : Node) : n.word 1 = ((if n.kind = .internal then 1#32 else 0#32) <<< 16) ||| n.sym.setWidth 32 := by
  have hlayout (k : BitVec 1) (b : Byte) : 0#15 ++ k ++ 0#8 ++ b = (k.setWidth 32 <<< 16) ||| b.setWidth 32 := by
    ext j hj
    grind
  cases hk : n.kind with
  | leaf => rw [Node.word, hk]; exact hlayout 0 n.sym
  | internal => rw [Node.word, hk]; exact hlayout 1 n.sym

/-- Settles O47: each window is an array of words, and with BUSY = 0 each word reads its value. -/
theorem tableWindowsRead : Obligations.TableWindowsRead := by
  intro s hb
  simp only [hostRead_value hb]
  refine ⟨fun b => ⟨?_, ?_⟩, fun b k hk => ?_, fun i f hi hf hz => ?_, fun i hn hi => ?_⟩
  · rw [regAt_freq b.isLt]; rfl
  · rw [regAt_codeLen b.isLt]; rfl
  · rw [regAt_codeBits b.isLt hk]; exact extractLsb'_setWidth_code _ k
  · rw [regAt_node hi hf]; exact if_pos hz
  · have hword {f : Nat} (hf : f < 4) : s.regValue (regAt (0x4000 + 16 * i + 4 * f)) = (s.nodeNo i).word f := by
      rw [regAt_node hi.le hf, regValue_node hn hi]
    exact ⟨hword (f := 0) (by decide), (hword (f := 1) (by decide)).trans (word_one _), hword (f := 2) (by decide),
      hword (f := 3) (by decide)⟩

end Sys2Proof.Machine

namespace Sys2Proof.Machine

/-! ### The single registers (20_memory.md R82) -/

/-- The two words of a 64-bit counter (20_memory.md R89). -/
theorem hiWord_append_loWord (v : Word64) : hiWord v ++ loWord v = v :=
  (BitVec.extractLsb'_append_extractLsb'_eq_extractLsb' rfl).trans BitVec.extractLsb'_eq_self

theorem ofBool_setWidth (b : Bool) : (BitVec.ofBool b).setWidth 32 = if b then 1#32 else 0#32 := by
  cases b <;> rfl

/-- CAPS: the depth below, NSYM_MAX - 1 above (10_state.md R46). -/
theorem caps_eq (p : Params) : p.caps = 0x00FF0000 ||| BitVec.ofNat 32 (p.outFifoDepth % 65536) := by
  have hdepth : BitVec.ofNat 32 (p.outFifoDepth % 65536) = (BitVec.ofNat 16 p.outFifoDepth).setWidth 32 :=
    BitVec.eq_of_toNat_eq (by simp)
  have hlayout (x y : BitVec 16) : x ++ y = (x.setWidth 32 <<< 16) ||| y.setWidth 32 := by
    ext j hj
    grind
  rw [hdepth]
  exact hlayout _ _

/-- Settles O48: with BUSY = 0 each register reads its value, found at its offset in the map. -/
theorem singleRegistersRead : Obligations.SingleRegistersRead := by
  intro s hb rd hrd
  simp only [hrd, hostRead_value hb]
  refine ⟨rfl, caps_eq s.params, ofBool_setWidth s.tie, rfl, rfl, rfl, rfl, rfl, rfl, rfl, rfl, rfl,
    hiWord_append_loWord s.expBits, hiWord_append_loWord s.dataBits, hiWord_append_loWord s.outBytes,
    hiWord_append_loWord s.encCount, rfl, rfl, rfl, ofBool_setWidth s.tieUsed, ?_, rfl⟩
  cases h : s.outq with
  | nil => exact regValue_outData_nil h
  | cons b q => exact regValue_outData_cons h

end Sys2Proof.Machine

namespace Sys2Proof.Machine

/-! ### One step of the command in flight, an equation per case (10_state.md R48, 44_bitpacker.md R269) -/

theorem coreStep_count {s : State} {b : Byte} (hf : s.flight = .count b) :
    coreStep s = .ok { s.countByte b with flight := .idle } := by
  unfold coreStep; rw [hf]

theorem coreStep_build {s u : State} (hf : s.flight = .build) (hu : s.buildCodes = .ok u) :
    coreStep s = .ok { u with flight := .idle } := by
  unfold coreStep; simp only [hf, hu]

theorem coreStep_write_nil {s : State} {n : Nat} {e : Bool} (hf : s.flight = .write [] n e) :
    coreStep s = .ok { s.finishWrite n e with flight := .idle } := by
  unfold coreStep; rw [hf]

/-- A bit that would complete a byte waits while the FIFO is full. -/
theorem coreStep_write_wait {s : State} {b : Bool} {bs : List Bool} {n : Nat} {e : Bool} (hf : s.flight = .write (b :: bs) n e)
    (h7 : s.bitcnt = 7) (hfull : s.fifoFull = true) : coreStep s = .ok s := by
  unfold coreStep
  rw [hf]
  exact if_pos (by simpa using ⟨h7, hfull⟩)

theorem coreStep_write_bit {s : State} {b : Bool} {bs : List Bool} {n : Nat} {e : Bool} (hf : s.flight = .write (b :: bs) n e)
    (hroom : s.bitcnt ≠ 7 ∨ s.fifoFull = false) : coreStep s = .ok { s.writeBit b with flight := .write bs n e } := by
  unfold coreStep
  rw [hf]
  exact if_neg (by simpa [imp_iff_not_or] using hroom)

/-- A FLUSH that would emit a byte waits while the FIFO is full. -/
theorem coreStep_flush_wait {s : State} (hf : s.flight = .flush) (h0 : s.bitcnt ≠ 0) (hfull : s.fifoFull = true) :
    coreStep s = .ok s := by
  unfold coreStep
  rw [hf]
  exact if_pos (by simpa using ⟨h0, hfull⟩)

theorem coreStep_flush {s : State} (hf : s.flight = .flush) (hroom : s.bitcnt = 0 ∨ s.fifoFull = false) :
    coreStep s = .ok { s.flushHeld with flight := .idle } := by
  unfold coreStep
  rw [hf]
  exact if_neg (by simpa [imp_iff_not_or] using hroom)

end Sys2Proof.Machine

namespace Sys2Proof.Machine

/-! ### The core reads neither the error registers nor the pace (60_exceptions.md R345) -/

/-- The state with other values in the error registers and another pace. -/
def State.withErrPace (c : ErrCode) (w : Word) (p : Pace) (s : State) : State := { s with errCode := c, errCmd := w, pace := p }

section
variable (c : ErrCode) (w : Word) (p : Pace)

theorem writeBit_withErrPace (b : Bool) (s : State) : (s.withErrPace c w p).writeBit b = (s.writeBit b).withErrPace c w p := by
  unfold State.writeBit State.withErrPace; split <;> rfl

theorem flushHeld_withErrPace (s : State) : (s.withErrPace c w p).flushHeld = s.flushHeld.withErrPace c w p := by
  unfold State.flushHeld State.withErrPace; split <;> rfl

theorem buildCodes_withErrPace {s t : State} (h : s.buildCodes = .ok t) :
    (s.withErrPace c w p).buildCodes = .ok (t.withErrPace c w p) := by
  unfold State.withErrPace
  unfold State.buildCodes at h ⊢
  rcases hb : buildTree s.tieUsed s.freq s.node s.heap.slot with f | ⟨root, work⟩
  · simp only [hb] at h; cases h
  · rcases hg : genCodes work.nodes root (leavesOf s.freq).length ⟨s.codeLen, s.codeVal⟩ with f | codes
    · simp only [hb, hg] at h; cases h
    · simp only [hb, hg] at h ⊢
      injection h with h
      rw [← h]

theorem coreStep_withErrPace {s t : State} (h : coreStep s = .ok t) : coreStep (s.withErrPace c w p) = .ok (t.withErrPace c w p) := by
  rcases coreStep_cases h with ⟨hf, rfl⟩ | ⟨b, hf, rfl⟩ | ⟨u, hf, hu, rfl⟩ | ⟨n, e, hf, rfl⟩ | ⟨b, bs, n, e, hf, h7, hfull, rfl⟩ |
    ⟨b, bs, n, e, hf, hroom, rfl⟩ | ⟨hf, h0, hfull, rfl⟩ | ⟨hf, hroom, rfl⟩
  · exact coreStep_idle hf
  · exact coreStep_count (s := s.withErrPace c w p) hf
  · exact coreStep_build (s := s.withErrPace c w p) hf (buildCodes_withErrPace c w p hu)
  · exact coreStep_write_nil (s := s.withErrPace c w p) hf
  · exact coreStep_write_wait hf h7 hfull
  · rw [coreStep_write_bit (s := s.withErrPace c w p) hf hroom, writeBit_withErrPace]; rfl
  · exact coreStep_flush_wait hf h0 hfull
  · rw [coreStep_flush (s := s.withErrPace c w p) hf hroom, flushHeld_withErrPace]; rfl

theorem coreSteps_withErrPace {k : Nat} {s t : State} (h : coreSteps k s = .ok t) :
    coreSteps k (s.withErrPace c w p) = .ok (t.withErrPace c w p) := by
  induction k generalizing s with
  | zero =>
    injection h with h
    rw [← h]; rfl
  | succ k ih =>
    simp only [coreSteps] at h
    split at h
    · cases h
    · rename_i u hu
      simp only [coreSteps, coreStep_withErrPace c w p hu]
      exact ih h

/-- The pace alone, since no step of the core writes the error registers. -/
theorem coreSteps_withPace {k : Nat} {s t : State} (h : coreSteps k s = .ok t) :
    coreSteps k { s with pace := p } = .ok { t with pace := p } := by
  obtain ⟨-, -, -, hcode, hcmd, -⟩ := coreSteps_frame h
  have hsame : t.withErrPace s.errCode s.errCmd p = { t with pace := p } := by rw [← hcode, ← hcmd]; rfl
  rw [← hsame]
  exact coreSteps_withErrPace s.errCode s.errCmd p h

end

end Sys2Proof.Machine

namespace Sys2Proof.Machine

/-! ### Where the command in flight ends (10_state.md R34, R48) -/

/-- A step that does not wait brings the command one step nearer to where it ends or waits, so that place stays the same. -/
theorem coreStep_keeps_end {s t : State} (h : coreStep s = .ok t) :
    coreSteps t.flight.length t = coreSteps s.flight.length s := by
  have key (hlen : s.flight.length = t.flight.length + 1) : coreSteps t.flight.length t = coreSteps s.flight.length s := by
    rw [hlen, coreSteps, h]
  rcases coreStep_cases h with ⟨-, rfl⟩ | ⟨b, hf, rfl⟩ | ⟨u, hf, -, rfl⟩ | ⟨n, e, hf, rfl⟩ | ⟨b, bs, n, e, -, -, -, rfl⟩ |
    ⟨b, bs, n, e, hf, -, rfl⟩ | ⟨-, -, -, rfl⟩ | ⟨hf, -, rfl⟩
  · rfl
  · exact key (by rw [hf]; rfl)
  · exact key (by rw [hf]; rfl)
  · exact key (by rw [hf]; rfl)
  · rfl
  · exact key (by rw [hf]; rfl)
  · rfl
  · exact key (by rw [hf]; rfl)

/-- However many steps the core has made, letting it go on ends where it would have ended at once. -/
theorem coreSteps_keeps_end {k : Nat} {s t : State} (h : coreSteps k s = .ok t) :
    coreSteps t.flight.length t = coreSteps s.flight.length s :=
  coreSteps_induct (P := fun u => coreSteps u.flight.length u = coreSteps s.flight.length s)
    (fun _ _ hu huv => (coreStep_keeps_end huv).trans hu) rfl h

end Sys2Proof.Machine

namespace Sys2Proof.Machine

/-! ### A command reads the pace only to let the core go on (20_memory.md R96) -/

/-- At every pace `f` prepares the same state, and then lets the core go on. -/
def PaceOnlyAdvances (f : State → Answer) (s : State) : Prop :=
  ∃ u : State, ∀ p, f { s with pace := p } = settle (advance { u with pace := p })

/-- An answer with no command in flight is one after which the core has nothing to do. -/
theorem PaceOnlyAdvances.of_next {f : State → Answer} {s u : State} (hu : u.flight = .idle)
    (h : ∀ p, f { s with pace := p } = .next { u with pace := p }) : PaceOnlyAdvances f s :=
  ⟨u, fun p => by rw [h p, advance_idle (s := { u with pace := p }) hu, settle_ok]⟩

/-- A term that no word encodes is ILLEGAL (44_bitpacker.md R265). -/
theorem accept_malformed {i : Instr} {rule : State → Answer} {s : State} (he : s.errCode = .none) (hf : s.flight = .idle)
    (hw : i.wellFormed = false) : accept i rule s = .next (s.raise .illegalCommand (encode i)) := by
  simp [accept, receive_ready he hf, hw]

theorem PaceOnlyAdvances.accept {i : Instr} {rule : State → Answer} {s : State} (hrule : s.flight = .idle → PaceOnlyAdvances rule s) :
    PaceOnlyAdvances (accept i rule) s := by
  by_cases he : s.errCode = .none
  · by_cases hf : s.flight = .idle
    · by_cases hw : i.wellFormed = true
      · by_cases hl : legalIn i s.seqPhase = true
        · obtain ⟨u, hu⟩ := hrule hf
          exact ⟨u, fun p => (accept_legal (s := { s with pace := p }) he hf hw hl).trans (hu p)⟩
        · exact .of_next (u := s.raise .sequence (encode i)) hf fun p =>
            accept_illegal_phase (s := { s with pace := p }) he hf hw (Bool.eq_false_iff.2 hl)
      · exact .of_next (u := s.raise .illegalCommand (encode i)) hf fun p =>
          accept_malformed (s := { s with pace := p }) he hf (Bool.eq_false_iff.2 hw)
    · exact ⟨s.raise .busyViolation (encode i), fun p => receive_busy (s := { s with pace := p }) he (State.busy_eq_true.2 hf)⟩
  · exact ⟨s, fun p => receive_error (s := { s with pace := p }) he⟩

theorem PaceOnlyAdvances.exec (i : Instr) (s : State) : PaceOnlyAdvances (exec i) s := by
  cases i with
  | nop => exact .accept fun hf => .of_next hf fun _ => rfl
  | clear => exact .of_next (u := s.clear) rfl fun _ => rfl
  | count b =>
    refine .accept fun hf => ?_
    by_cases hmax : s.totalLen = Config.totalMax
    · exact .of_next (u := s.raise .freqOverflow (encode (.count b))) hf fun _ => if_pos hmax
    · exact ⟨{ s with flight := .count b }, fun _ => if_neg hmax⟩
  | build =>
    refine .accept fun hf => ?_
    by_cases hn : s.nsym = 0
    · exact .of_next (u := s.raise .emptyInput (encode .build)) hf fun _ => if_pos hn
    · exact ⟨{ s with tieUsed := s.tie, flight := .build }, fun _ => if_neg hn⟩
  | encode b =>
    refine .accept fun hf => ?_
    by_cases hz : s.codeLenAt b = 0
    · exact .of_next (u := s.raise .uncodedSymbol (encode (.encode b))) hf fun _ => if_pos hz
    · exact ⟨{ s with flight := .write (s.codeBits b) (s.codeLenAt b).toNat true }, fun _ => if_neg hz⟩
  | flush => exact .accept fun _ => ⟨{ s with flight := .flush }, fun _ => rfl⟩
  | packRaw n r => exact .accept fun _ => ⟨{ s with flight := .write (rawBits n r) n.toNat false }, fun _ => rfl⟩

/-- Settles O58: at either pace the command prepares the same core, whose steps do not read the pace and lead to the same end. -/
theorem partialProgressEndsTheSame : Obligations.PartialProgressEndsTheSame := by
  intro i s t t' k ht ht'
  obtain ⟨u, hu⟩ := PaceOnlyAdvances.exec i s
  rw [hu, settle_eq_next] at ht ht'
  have hend : coreSteps u.flight.length { u with pace := .full } = .ok t' := ht'
  have hpart : coreSteps k { u with pace := .steps k } = .ok t := ht
  exact (coreSteps_keeps_end hpart).trans (coreSteps_withPace (s := { u with pace := .full }) (.steps k) hend)

end Sys2Proof.Machine

namespace Sys2Proof.Machine

/-! ### A word has one meaning (30_encoding.md R122 to R126) -/

/-- Settles O1: each format keeps its opcode and operands in their own fields. -/
theorem decodeOfEncodeIsTheCommand : Obligations.DecodeOfEncodeIsTheCommand :=
  fun _ => decode_encode

/-- A word of format C1 is its fields put together. -/
theorem encodeC1_of_fields {op : Byte} {w : Word} (hop : w.extractLsb' 0 8 = op) (hz : w.extractLsb' 16 16 = 0) :
    encodeC1 op (w.extractLsb' 8 8) = w := by
  have hz : 0#16 = w.extractLsb' 16 16 := hz.symm
  rw [encodeC1, ← hop, hz, BitVec.extractLsb'_append_extractLsb'_eq_extractLsb' (show 16 = 8 + 8 from rfl),
    BitVec.extractLsb'_append_extractLsb'_eq_extractLsb' (show 8 = 0 + 8 from rfl)]
  exact BitVec.extractLsb'_eq_self

/-- A word of format C2 is its fields put together. -/
theorem encodeC2_of_fields {op : Byte} {w : Word} (hop : w.extractLsb' 0 8 = op) (hz : w.extractLsb' 13 3 = 0) :
    encodeC2 op (w.extractLsb' 8 5) (w.extractLsb' 16 16) = w := by
  have hz : 0#3 = w.extractLsb' 13 3 := hz.symm
  rw [encodeC2, ← hop, hz, BitVec.extractLsb'_append_extractLsb'_eq_extractLsb' (show 16 = 13 + 3 from rfl),
    BitVec.extractLsb'_append_extractLsb'_eq_extractLsb' (show 13 = 8 + 5 from rfl),
    BitVec.extractLsb'_append_extractLsb'_eq_extractLsb' (show 8 = 0 + 8 from rfl)]
  exact BitVec.extractLsb'_eq_self

/-- What a word of format C0 decodes to has that word. -/
theorem word_of_decodeC0 {w : Word} {i j : Instr} {n : Nat} (hop : (w.extractLsb' 0 8).toNat = n)
    (hi : encode i = BitVec.ofNat 32 n ∧ i.wellFormed = true) (h : decodeC0 w i = .ok j) : encode j = w ∧ j.wellFormed = true := by
  obtain ⟨hz, rfl⟩ := decodeC0_ok h
  rwa [eq_of_opcode_of_zeroField hop hz]

/-- What a word of format C1 decodes to has that word. -/
theorem word_of_decodeC1 {w : Word} {mk : Byte → Instr} {j : Instr} {op : Byte} (hop : (w.extractLsb' 0 8).toNat = op.toNat)
    (hmk : ∀ b, encode (mk b) = encodeC1 op b ∧ (mk b).wellFormed = true) (h : decodeC1 w mk = .ok j) :
    encode j = w ∧ j.wellFormed = true := by
  unfold decodeC1 at h
  split at h
  · rename_i hz
    injection h with h
    rw [← h, (hmk _).1]
    exact ⟨encodeC1_of_fields (BitVec.eq_of_toNat_eq hop) hz, (hmk _).2⟩
  · cases h

/-- What a word of format C2 decodes to has that word, and a legal NBITS. -/
theorem word_of_decodeC2 {w : Word} {j : Instr} (hop : (w.extractLsb' 0 8).toNat = 0x06) (h : decodeC2 w .packRaw = .ok j) :
    encode j = w ∧ j.wellFormed = true := by
  unfold decodeC2 at h
  split at h
  · cases h
  · rename_i hz
    split at h
    · rename_i hn
      injection h with h
      subst h
      exact ⟨encodeC2_of_fields (BitVec.eq_of_toNat_eq hop) (not_not.1 hz), hn⟩
    · cases h

/-- Settles O2: in each format the fields the decoder reads or finds 0 are the whole word. -/
theorem encodeOfDecodeIsTheWord : Obligations.EncodeOfDecodeIsTheWord := by
  intro w i h
  unfold decode at h
  split at h
  next hop => exact word_of_decodeC0 hop (by decide) h
  next hop => exact word_of_decodeC0 hop (by decide) h
  next hop => exact word_of_decodeC1 (op := 0x02) hop (fun _ => ⟨rfl, rfl⟩) h
  next hop => exact word_of_decodeC0 hop (by decide) h
  next hop => exact word_of_decodeC1 (op := 0x04) hop (fun _ => ⟨rfl, rfl⟩) h
  next hop => exact word_of_decodeC0 hop (by decide) h
  next hop => exact word_of_decodeC2 hop h
  next => cases h

/-- Decoding undoes encoding, and encoding decoding. -/
theorem decode_eq_ok_iff {w : Word} {i : Instr} : decode w = .ok i ↔ encode i = w ∧ i.wellFormed = true := by
  refine ⟨encodeOfDecodeIsTheWord w i, ?_⟩
  rintro ⟨rfl, hi⟩
  exact decode_encode hi

/-- Settles O4: the word is the command's own, with its operands in these fields. -/
theorem operandsComeFromTheirFields : Obligations.OperandsComeFromTheirFields := by
  intro w
  refine ⟨fun b h => ?_, fun b h => ?_, fun n r h => ?_⟩ <;> obtain ⟨rfl, -⟩ := decode_eq_ok_iff.1 h
  · obtain ⟨-, hbyte, -⟩ := encodeC1_fields 0x02 b
    exact hbyte.symm
  · obtain ⟨-, hbyte, -⟩ := encodeC1_fields 0x04 b
    exact hbyte.symm
  · obtain ⟨-, hnbits, -, hraw⟩ := encodeC2_fields 0x06 n r
    exact ⟨hnbits.symm, hraw.symm⟩

/-- Settles O6: each word and each command is evaluated. -/
theorem sampleWordsDecode : Obligations.SampleWordsDecode := by
  unfold Obligations.SampleWordsDecode
  decide

/-! ### Match and mask (30_encoding.md R124) -/

/-- A row without operands selects its one word. -/
theorem decode_eq_ok_iff_word {w : Word} {i : Instr} (hi : i.wellFormed = true) : decode w = .ok i ↔ w &&& 0xFFFFFFFF = encode i := by
  have hmask : w &&& 0xFFFFFFFF = w := BitVec.and_allOnes
  rw [decode_eq_ok_iff, hmask, and_iff_left hi, eq_comm]

/-- A field the mask covers reads the same in the match. -/
theorem extractLsb'_of_mask {w mask m : Word} {i n : Nat} (hmask : mask.extractLsb' i n = BitVec.allOnes n) (h : w &&& mask = m) :
    w.extractLsb' i n = m.extractLsb' i n := by
  rw [← h, BitVec.extractLsb'_and, hmask, BitVec.and_allOnes]

/-- A word selected by a row of format C1 is the word of the row's opcode and its own BYTE. -/
theorem encodeC1_of_mask {w m : Word} (h : w &&& 0xFFFF00FF = m) (hm : m.extractLsb' 16 16 = 0) :
    encodeC1 (m.extractLsb' 0 8) (w.extractLsb' 8 8) = w :=
  encodeC1_of_fields (extractLsb'_of_mask (by decide) h) ((extractLsb'_of_mask (by decide) h).trans hm)

/-- A word selected by a row of format C2 is the word of the row's opcode and its own NBITS and RAW. -/
theorem encodeC2_of_mask {w m : Word} (h : w &&& 0x0000E0FF = m) (hm : m.extractLsb' 13 3 = 0) :
    encodeC2 (m.extractLsb' 0 8) (w.extractLsb' 8 5) (w.extractLsb' 16 16) = w :=
  encodeC2_of_fields (extractLsb'_of_mask (by decide) h) ((extractLsb'_of_mask (by decide) h).trans hm)

theorem nbitsLegal_iff {n : BitVec 5} : nbitsLegal n = true ↔ 1 ≤ n.toNat ∧ n.toNat ≤ 16 := decide_eq_true_iff

/-- Settles O3: the words a row selects are those of its commands. -/
theorem wordsAreSelectedByMatchAndMask : Obligations.WordsAreSelectedByMatchAndMask := by
  intro w
  refine ⟨decode_eq_ok_iff_word rfl, decode_eq_ok_iff_word rfl, ⟨?_, fun h => ?_⟩, decode_eq_ok_iff_word rfl, ⟨?_, fun h => ?_⟩,
    decode_eq_ok_iff_word rfl, ⟨?_, ?_⟩⟩
  · rintro ⟨b, h⟩
    obtain ⟨rfl, -⟩ := decode_eq_ok_iff.1 h
    exact Laws.TableRow.count b
  · exact ⟨_, decode_eq_ok_iff.2 ⟨encodeC1_of_mask h rfl, rfl⟩⟩
  · rintro ⟨b, h⟩
    obtain ⟨rfl, -⟩ := decode_eq_ok_iff.1 h
    exact Laws.TableRow.encode b
  · exact ⟨_, decode_eq_ok_iff.2 ⟨encodeC1_of_mask h rfl, rfl⟩⟩
  · rintro ⟨n, r, h⟩
    obtain ⟨rfl, hn⟩ := decode_eq_ok_iff.1 h
    obtain ⟨-, hnbits, -⟩ := encodeC2_fields 0x06 n r
    refine ⟨Laws.TableRow.packRaw n r, ?_⟩
    rw [encode, hnbits]
    exact nbitsLegal_iff.1 hn
  · rintro ⟨h, hn⟩
    exact ⟨_, _, decode_eq_ok_iff.2 ⟨encodeC2_of_mask h rfl, nbitsLegal_iff.2 hn⟩⟩

/-! ### The illegal words (30_encoding.md R126) -/

theorem decodeC0_errs {w : Word} {i : Instr} : (∃ e, decodeC0 w i = .error e) ↔ w.extractLsb' 8 24 ≠ 0 := by
  unfold decodeC0; split <;> simp_all

theorem decodeC1_errs {w : Word} {mk : Byte → Instr} : (∃ e, decodeC1 w mk = .error e) ↔ w.extractLsb' 16 16 ≠ 0 := by
  unfold decodeC1; split <;> simp_all

theorem decodeC2_errs {w : Word} {mk : BitVec 5 → BitVec 16 → Instr} :
    (∃ e, decodeC2 w mk = .error e) ↔
      w.extractLsb' 13 3 ≠ 0 ∨ (w.extractLsb' 8 5).toNat = 0 ∨ 17 ≤ (w.extractLsb' 8 5).toNat := by
  have hn : nbitsLegal (w.extractLsb' 8 5) = false ↔ (w.extractLsb' 8 5).toNat = 0 ∨ 17 ≤ (w.extractLsb' 8 5).toNat := by
    rw [Bool.eq_false_iff, ne_eq, nbitsLegal_iff]; omega
  unfold decodeC2
  rw [← hn]
  split
  · simp_all
  · split <;> simp_all

/-- The words without a command, by opcode. -/
theorem decode_errs_iff {w : Word} :
    (∃ e, decode w = .error e) ↔
      (7 ≤ (w.extractLsb' 0 8).toNat ∨
       ((w.extractLsb' 0 8).toNat ∈ [0, 1, 3, 5] ∧ w.extractLsb' 8 24 ≠ 0) ∨
       ((w.extractLsb' 0 8).toNat ∈ [2, 4] ∧ w.extractLsb' 16 16 ≠ 0) ∨
       ((w.extractLsb' 0 8).toNat = 6 ∧
         (w.extractLsb' 13 3 ≠ 0 ∨ (w.extractLsb' 8 5).toNat = 0 ∨ 17 ≤ (w.extractLsb' 8 5).toNat))) := by
  unfold decode
  split
  next hop => rw [decodeC0_errs, hop]; simp
  next hop => rw [decodeC0_errs, hop]; simp
  next hop => rw [decodeC1_errs, hop]; simp
  next hop => rw [decodeC0_errs, hop]; simp
  next hop => rw [decodeC1_errs, hop]; simp
  next hop => rw [decodeC0_errs, hop]; simp
  next hop => rw [decodeC2_errs, hop]; simp
  next h0 h1 h2 h3 h4 h5 h6 =>
    simp only [imp_false] at h0 h1 h2 h3 h4 h5 h6
    exact ⟨fun _ => .inl (by omega), fun _ => ⟨_, rfl⟩⟩

/-- Settles O5: each format errs on its own illegal fields, and an illegal word that passes the first checks is rejected. -/
theorem illegalWordsRaiseIllegalCommand : Obligations.IllegalWordsRaiseIllegalCommand := by
  intro w
  refine ⟨decode_errs_iff, ?_⟩
  rintro s ⟨e, he⟩ herr hf
  rw [command, he]
  exact receive_ready herr hf

/-! ### RAW above NBITS (30_encoding.md R123) -/

/-- Settles O38: in READY both commands are accepted, and write the bits of RAW below NBITS. -/
theorem packRawIgnoresTheBitsAbove : Obligations.PackRawIgnoresTheBitsAbove := by
  rintro s n r r' ⟨he, hf, hp⟩ h1 h16 hbits
  have haccept (r : BitVec 16) : exec (.packRaw n r) s = launch (.write (rawBits n r) n.toNat false) s :=
    accept_legal he hf (nbitsLegal_iff.2 ⟨h1, h16⟩) (by rw [hp]; rfl)
  have hraw : rawBits n r = rawBits n r' := bitsOf_congr hbits
  rw [haccept, haccept, hraw]

end Sys2Proof.Machine

namespace Sys2Proof.Machine

/-! ### The bits written (44_bitpacker.md R260 to R262) -/

theorem bytesBits_append (p q : List Byte) : bytesBits (p ++ q) = bytesBits p ++ bytesBits q := List.flatMap_append

theorem bytesBits_singleton (b : Byte) : bytesBits [b] = byteBits b := List.flatMap_singleton _ _

/-- With no bit held the bitstream is the bytes of OUTQ. -/
theorem bitstream_of_bitcnt_zero {s : State} (h : s.bitcnt = 0) : s.bitstream = bytesBits s.outq := by
  rw [State.bitstream, State.held, h]
  exact List.append_nil _

/-- `write_bit` appends its bit to the bitstream. -/
theorem bitstream_writeBit (b : Bool) (s : State) : (s.writeBit b).bitstream = s.bitstream ++ [b] := by
  unfold State.writeBit
  split
  · rename_i h7
    have hbyte : byteBits (shiftIn s.acc b) = s.held ++ [b] := by
      rw [byteBits, bitsOf_shiftIn s.acc b (n := 7) (by decide), State.held, h7]; rfl
    rw [bitstream_of_bitcnt_zero rfl]
    simp only [State.emit_outq, bytesBits_append, bytesBits_singleton, hbyte, State.bitstream, List.append_assoc]
  · rename_i hne
    have hlt : s.bitcnt.toNat < 7 := by
      have hne : s.bitcnt.toNat ≠ 7 := fun e => hne (BitVec.eq_of_toNat_eq e)
      have := s.bitcnt.isLt
      omega
    have hcnt : (s.bitcnt + 1).toNat = s.bitcnt.toNat + 1 := toNat_add_one (by omega)
    simp only [State.bitstream, State.held, hcnt, bitsOf_shiftIn s.acc b (show s.bitcnt.toNat < 8 by omega), List.append_assoc]

theorem lastPad_flushHeld (s : State) : s.flushHeld.lastPad.toNat = (8 - s.bitcnt.toNat) % 8 := by
  unfold State.flushHeld
  split
  · rename_i h0
    rw [h0]; rfl
  · exact BitVec.toNat_ofNat ..

/-- FLUSH appends the padding to the bitstream, and leaves all of it in whole bytes. -/
theorem bitstream_flushHeld (s : State) :
    s.flushHeld.bitstream = s.bitstream ++ List.replicate s.flushHeld.lastPad.toNat false := by
  rw [lastPad_flushHeld]
  unfold State.flushHeld
  split
  · rename_i h0
    have hpad : (8 - s.bitcnt.toNat) % 8 = 0 := by rw [h0]; rfl
    rw [hpad]
    exact (List.append_nil _).symm
  · rename_i h0
    have hpos : s.bitcnt.toNat ≠ 0 := fun e => h0 (BitVec.eq_of_toNat_eq e)
    have hlt := s.bitcnt.isLt
    have hpad : (8 - s.bitcnt.toNat) % 8 = 8 - s.bitcnt.toNat := Nat.mod_eq_of_lt (by omega)
    have hbyte := bitsOf_shiftLeft s.acc (n := s.bitcnt.toNat) (k := 8 - s.bitcnt.toNat) (by omega)
    rw [Nat.add_sub_cancel' (by omega)] at hbyte
    rw [bitstream_of_bitcnt_zero rfl, hpad]
    simp only [State.emit_outq, bytesBits_append, bytesBits_singleton, byteBits, hbyte, State.bitstream, State.held, List.append_assoc]

/-- The bits that have reached the host, OUTQ or ACC, the earliest first. -/
def State.written (s : State) : List Bool := bytesBits s.hostOut ++ s.bitstream

theorem written_popOut (s : State) : s.popOut.written = s.written := by
  simp only [State.written, State.bitstream, State.held, ← List.append_assoc, ← bytesBits_append, State.popOut_output,
    State.popOut_acc, State.popOut_bitcnt]

theorem written_writeBit (b : Bool) (s : State) : (s.writeBit b).written = s.written ++ [b] := by
  rw [State.written, State.writeBit_hostOut, bitstream_writeBit, State.written, List.append_assoc]

theorem written_flushHeld (s : State) : s.flushHeld.written = s.written ++ List.replicate s.flushHeld.lastPad.toNat false := by
  rw [State.written, State.flushHeld_hostOut, bitstream_flushHeld, State.written, List.append_assoc]

end Sys2Proof.Machine

namespace Sys2Proof.Machine

/-! ### WAIT ends (30_encoding.md R127, 70_reset_and_hazards.md R392)

Each turn pops a byte, or meets a FIFO with room, and then the core moves. -/

/-- What is left to do: every step of the command in flight, which may put a byte into OUTQ, and every byte to pop. -/
def State.work (s : State) : Nat := 2 * s.flight.length + s.outq.length

theorem Emits.length_le_succ {s t : State} (h : Emits s t) : t.outq.length ≤ s.outq.length + 1 := by
  rcases h with ⟨e, -⟩ | ⟨-, b, e, -⟩
  · rw [e]; exact Nat.le_succ _
  · rw [e, List.length_append]; rfl

/-- A step of the core leaves less to do, unless there is none to take or the FIFO is full. -/
theorem coreStep_work {s t : State} (h : coreStep s = .ok t) :
    t.work < s.work ∨ (t = s ∧ (s.flight = .idle ∨ s.fifoFull = true)) := by
  rcases coreStep_cases h with ⟨hf, rfl⟩ | ⟨b, hf, rfl⟩ | ⟨u, hf, hu, rfl⟩ | ⟨n, e, hf, rfl⟩ | ⟨b, bs, n, e, -, -, hfull, rfl⟩ |
    ⟨b, bs, n, e, hf, hroom, rfl⟩ | ⟨-, -, hfull, rfl⟩ | ⟨hf, hroom, rfl⟩
  · exact .inr ⟨rfl, .inl hf⟩
  · exact .inl (by simp [State.work, hf, Flight.length])
  · exact .inl (by rw [State.buildCodes_frame hu]; simp [State.work, hf, Flight.length])
  · exact .inl (by simp [State.work, hf, Flight.length])
  · exact .inr ⟨rfl, .inr hfull⟩
  · have := (emits_writeBit hroom b).length_le_succ
    exact .inl (by simp only [State.work, hf, Flight.length, List.length_cons]; omega)
  · exact .inr ⟨rfl, .inr hfull⟩
  · have := (emits_flushHeld hroom).length_le_succ
    exact .inl (by simp only [State.work, hf, Flight.length]; omega)

theorem coreSteps_work_le {k : Nat} {s t : State} (h : coreSteps k s = .ok t) : t.work ≤ s.work :=
  coreSteps_induct (P := fun u => u.work ≤ s.work)
    (fun _ _ hu huv => by rcases coreStep_work huv with hlt | ⟨rfl, -⟩ <;> omega) le_rfl h

theorem advance_work_le {s t : State} (h : advance s = .ok t) : t.work ≤ s.work := by
  rw [advance_eq] at h; exact coreSteps_work_le h

/-- With room in the FIFO the core gets on with a command in flight. -/
theorem advance_work_lt {s t : State} (hp : s.pace = .full) (hf : s.flight ≠ .idle) (hroom : s.fifoFull = false)
    (h : advance s = .ok t) : t.work < s.work := by
  obtain ⟨k, hk⟩ := Nat.exists_eq_succ_of_ne_zero (mt Flight.length_eq_zero.1 hf)
  simp only [advance, hp, hk, coreSteps] at h
  split at h
  · cases h
  · rename_i v hv
    have hlt : v.work < s.work := (coreStep_work hv).resolve_right fun ⟨_, hno⟩ => hno.elim hf (by simp [hroom])
    exact (coreSteps_work_le h).trans_lt hlt

/-- A pop leaves less to do, or there is none and a FIFO of depth 1 or more has room. -/
theorem popOut_work {s : State} (hd : 1 ≤ s.params.outFifoDepth) :
    s.popOut.work < s.work ∨ (s.popOut.work = s.work ∧ s.popOut.fifoFull = false) := by
  cases ho : s.outq with
  | nil =>
    rw [State.popOut_nil ho]
    exact .inr ⟨rfl, decide_eq_false (by rw [ho]; exact Nat.not_le.2 hd)⟩
  | cons b q =>
    rw [State.popOut_cons ho]
    exact .inl (by simp [State.work, ho])

/-- A turn of WAIT with BUSY = 1 pops, and stays in the host's list. -/
theorem step_wait_busy {s : State} {rest : List HostAccess} (hq : s.hostq = ⟨.wait, .full⟩ :: rest) (hf : s.flight ≠ .idle) :
    step s = settle (advance { s.popOut with pace := .full }) := by
  refine (step_access hq).trans ((if_pos (State.busy_eq_true.2 hf)).trans ?_)
  unfold State.popOut
  cases ho : s.outq <;> simp [hq, ho]

/-- A turn of WAIT with BUSY = 0 ends it. -/
theorem step_wait_idle {s : State} {rest : List HostAccess} (hq : s.hostq = ⟨.wait, .full⟩ :: rest) (hf : s.flight = .idle) :
    step s = .next { s with hostq := rest, pace := .full } :=
  (step_access hq).trans (if_neg (by simp [State.busy_eq_true, hf]))

/-- `P` is of no BUILD in flight, and a WAIT keeps it: its pops, its place in the host's list, and the core's steps. -/
structure KeptByWait (P : State → Prop) : Prop where
  notBuild : ∀ {u}, P u → u.flight ≠ .build
  host : ∀ {u : State} (q p), P u → P { u with hostq := q, pace := p }
  pop : ∀ {u}, P u → P u.popOut
  moves : ∀ {u v}, P u → coreStep u = .ok v → P v

section
variable {P : State → Prop} (hP : KeptByWait P)
include hP

/-- A command that is not BUILD goes on without a fault. -/
theorem KeptByWait.coreSteps_ok (k : Nat) {s : State} (hs : P s) : ∃ t, coreSteps k s = .ok t ∧ P t := by
  induction k generalizing s with
  | zero => exact ⟨s, rfl, hs⟩
  | succ k ih =>
    rcases hc : coreStep s with f | u
    · exact absurd (coreStep_fault hc).1 (hP.notBuild hs)
    · simp only [coreSteps, hc]
      exact ih (hP.moves hs hc)

theorem KeptByWait.advance_ok {s : State} (hs : P s) : ∃ t, advance s = .ok t ∧ P t := by
  rw [advance_eq]; exact hP.coreSteps_ok _ hs

variable {s : State} {rest : List HostAccess} (hs : P s) (hq : s.hostq = ⟨.wait, .full⟩ :: rest)
include hs hq

/-- A turn of WAIT with BUSY = 1 leaves less to do. -/
theorem KeptByWait.turn (hd : 1 ≤ s.params.outFifoDepth) (hf : s.flight ≠ .idle) :
    ∃ t, step s = .next t ∧ P t ∧ t.hostq = ⟨.wait, .full⟩ :: rest ∧ t.params = s.params ∧ t.work < s.work := by
  obtain ⟨t, ht, hPt⟩ := hP.advance_ok (s := { s.popOut with pace := .full }) (hP.host s.popOut.hostq _ (hP.pop hs))
  obtain ⟨hparams, -, -, -, -, hhostq, -⟩ := advance_frame ht
  refine ⟨t, by rw [step_wait_busy hq hf, ht, settle_ok], hPt, ?_, ?_, ?_⟩
  · exact (hhostq.trans (State.popOut_hostq s)).trans hq
  · exact hparams.trans (State.popOut_params s)
  · rcases popOut_work hd with hlt | ⟨heq, hroom⟩
    · exact (advance_work_le ht).trans_lt hlt
    · exact (advance_work_lt (s := { s.popOut with pace := .full }) rfl (by simpa using hf) hroom ht).trans_eq heq

/-- A WAIT at pace `full` comes to an end, and with it the command in flight. -/
theorem KeptByWait.run (hd : 1 ≤ s.params.outFifoDepth) :
    ∃ k t, Host.Core.run core k s = .next t ∧ t.busy = false ∧ t.hostq = rest ∧ P t := by
  induction hn : s.work using Nat.strong_induction_on generalizing s with
  | _ n ih =>
    by_cases hf : s.flight = .idle
    · exact ⟨1, _, run_step 0 (step_wait_idle hq hf), State.busy_eq_false.2 hf, rfl, hP.host _ _ hs⟩
    · obtain ⟨u, hstep, hu, hq', hparams, hlt⟩ := hP.turn hs hq hd hf
      obtain ⟨k, t, hrun, ht⟩ := ih _ (hn ▸ hlt) hu hq' (hparams ▸ hd) rfl
      exact ⟨k + 1, t, (run_step k hstep).trans hrun, ht⟩

end

/-- ENCODE or PACK_RAW of `bits`, in flight at `s`, has come as far as `u`: the bits left complete the output, or all are written and
counted. -/
def Writes (s : State) (bits : List Bool) (n : Nat) (enc : Bool) (u : State) : Prop :=
  (∃ bs, u.flight = .write bs n enc ∧ u.written ++ bs = s.written ++ bits ∧ u.dataBits = s.dataBits ∧ u.encCount = s.encCount) ∨
  (u.flight = .idle ∧ u.written = s.written ++ bits ∧ u.dataBits = s.dataBits + BitVec.ofNat 64 n ∧
    u.encCount = if enc = true then s.encCount + 1 else s.encCount)

theorem writes_keptByWait (s : State) (bits : List Bool) (n : Nat) (enc : Bool) : KeptByWait (Writes s bits n enc) where
  notBuild := by rintro u (⟨bs, hf, -⟩ | ⟨hf, -⟩) <;> simp [hf]
  host _ _ h := h
  pop h := by simpa only [Writes, written_popOut, State.popOut_flight, State.popOut_dataBits, State.popOut_encCount] using h
  moves := by
    rintro u v (⟨bs, hf, hw, hdata, henc⟩ | ⟨hf, h⟩) hv
    · cases bs with
      | nil =>
        obtain rfl := Except.ok.inj ((coreStep_write_nil hf).symm.trans hv)
        exact .inr ⟨rfl, (List.append_nil _).symm.trans hw, congrArg (· + _) hdata, by simp [henc]⟩
      | cons b bs =>
        by_cases hroom : u.bitcnt ≠ 7 ∨ u.fifoFull = false
        · obtain rfl := Except.ok.inj ((coreStep_write_bit hf hroom).symm.trans hv)
          refine .inl ⟨bs, rfl, ?_, by simpa using hdata, by simpa using henc⟩
          change (u.writeBit b).written ++ bs = _
          rw [written_writeBit, List.append_assoc]
          exact hw
        · obtain ⟨h7, hfull⟩ := not_or.1 hroom
          obtain rfl := Except.ok.inj ((coreStep_write_wait hf (not_not.1 h7) (Bool.eq_true_of_not_eq_false hfull)).symm.trans hv)
          exact .inl ⟨_, hf, hw, hdata, henc⟩
    · obtain rfl := Except.ok.inj ((coreStep_idle hf).symm.trans hv)
      exact .inr ⟨hf, h⟩

/-- FLUSH, in flight at `s`, has come as far as `u`: nothing is written yet, or the held bits stand in a byte, padded. -/
def Flushes (s : State) (u : State) : Prop :=
  u.dataBits = s.dataBits ∧ u.encCount = s.encCount ∧
  ((u.flight = .flush ∧ u.written = s.written ∧ u.bitcnt = s.bitcnt) ∨
   (u.flight = .idle ∧ u.bitcnt = 0 ∧ u.lastPad.toNat = (8 - s.bitcnt.toNat) % 8 ∧
     u.written = s.written ++ List.replicate u.lastPad.toNat false))

theorem flushes_keptByWait (s : State) : KeptByWait (Flushes s) where
  notBuild := by rintro u ⟨-, -, ⟨hf, -⟩ | ⟨hf, -⟩⟩ <;> simp [hf]
  host _ _ h := h
  pop h := by
    simpa only [Flushes, written_popOut, State.popOut_flight, State.popOut_dataBits, State.popOut_encCount, State.popOut_bitcnt,
      State.popOut_lastPad] using h
  moves := by
    rintro u v ⟨hdata, henc, ⟨hf, hw, hcnt⟩ | ⟨hf, h⟩⟩ hv
    · by_cases hroom : u.bitcnt = 0 ∨ u.fifoFull = false
      · obtain rfl := Except.ok.inj ((coreStep_flush hf hroom).symm.trans hv)
        refine ⟨by simpa using hdata, by simpa using henc, .inr ⟨rfl, by simp, ?_, ?_⟩⟩
        · rw [← hcnt]; exact lastPad_flushHeld u
        · rw [← hw]; exact written_flushHeld u
      · obtain ⟨h0, hfull⟩ := not_or.1 hroom
        obtain rfl := Except.ok.inj ((coreStep_flush_wait hf h0 (Bool.eq_true_of_not_eq_false hfull)).symm.trans hv)
        exact ⟨hdata, henc, .inl ⟨hf, hw, hcnt⟩⟩
    · obtain rfl := Except.ok.inj ((coreStep_idle hf).symm.trans hv)
      exact ⟨hdata, henc, .inr ⟨hf, h⟩⟩

/-- Settles O41: WAIT leaves less to do with every turn, and keeps the bits of the command in order. -/
theorem waitFinishesAStalledCommand : Obligations.WaitFinishesAStalledCommand := by
  intro s rest hq hd
  refine ⟨fun bits n enc hf => ?_, fun hf => ?_⟩
  · obtain ⟨k, t, hrun, hb, hrest, ht⟩ := (writes_keptByWait s bits n enc).run (.inl ⟨bits, hf, rfl, rfl, rfl⟩) hq hd
    obtain ⟨bs, hbusy, -⟩ | ⟨-, hw, hdata, henc⟩ := ht
    · simp [State.busy_eq_false.1 hb] at hbusy
    · exact ⟨k, t, hrun, hb, hrest, hw, hdata, henc⟩
  · obtain ⟨k, t, hrun, hb, hrest, hdata, henc, ht⟩ := (flushes_keptByWait s).run ⟨rfl, rfl, .inl ⟨hf, rfl, rfl⟩⟩ hq hd
    obtain ⟨hbusy, -⟩ | ⟨-, h0, hpad, hw⟩ := ht
    · simp [State.busy_eq_false.1 hb] at hbusy
    · refine ⟨k, t, hrun, hb, hrest, h0, hpad, ?_, hdata, henc⟩
      rw [← bitstream_of_bitcnt_zero h0]
      exact hw

end Sys2Proof.Machine

namespace Sys2Proof.Machine

/-! ### COUNT and the empty BUILD (40_frequency.md R160 to R162) -/

@[simp] theorem State.freqAt_countByte_same (b : Byte) (s : State) : (s.countByte b).freqAt b = s.freqAt b + 1 :=
  Table.read_write_same _ _ _ b.isLt

@[simp] theorem State.freqAt_countByte_ne {b c : Byte} (h : c ≠ b) (s : State) : (s.countByte b).freqAt c = s.freqAt c :=
  Table.read_write_ne _ _ _ fun e => h (BitVec.eq_of_toNat_eq e.symm)

/-- A well-formed command that the phase admits meets its own rule (60_exceptions.md R341). -/
theorem exec_legal {i : Instr} {s : State} (he : s.errCode = .none) (hf : s.flight = .idle) (hw : i.wellFormed = true)
    (hl : legalIn i s.seqPhase = true) : exec i s = familyRule i (encode i) s := by
  cases i with
  | clear => rfl
  | nop | flush | packRaw n r => exact accept_legal he hf hw hl
  | count b => rw [exec, execCount, accept_legal he hf hw hl]; rfl
  | build => rw [exec, execBuild, accept_legal he hf hw hl]; rfl
  | encode b => rw [exec, execEncode, accept_legal he hf hw hl]; rfl

/-- At pace `full` a command of one step is done when it has made that step (notes/assumptions/5.md). -/
theorem launch_of_length_one {f : Flight} {s t : State} (hp : s.pace = .full) (hlen : f.length = 1)
    (h : coreStep { s with flight := f } = .ok t) : launch f s = .next t := by
  simp only [launch, advance, hp, hlen, coreSteps] at h ⊢
  rw [h, settle_ok]

theorem launch_count {s : State} (hf : s.flight = .idle) (hp : s.pace = .full) (b : Byte) :
    launch (.count b) s = .next (s.countByte b) := by
  have hidle : { s.countByte b with flight := .idle } = s.countByte b := by rw [← hf]; rfl
  rw [← hidle]
  exact launch_of_length_one hp rfl (coreStep_count rfl)

theorem exec_count {b : Byte} {s : State} (hs : s.Accepting .collect) :
    exec (.count b) s = if s.totalLen = 0xFFFFFFFF then .next (s.raise .freqOverflow (encode (.count b))) else launch (.count b) s := by
  obtain ⟨he, hf, hc⟩ := hs
  exact exec_legal he hf rfl (decide_eq_true hc)

theorem exec_count_below {b : Byte} {s : State} (hs : s.Accepting .collect) (hmax : s.totalLen ≠ 0xFFFFFFFF) (hp : s.pace = .full) :
    exec (.count b) s = .next (s.countByte b) := by
  have ⟨_, hf, _⟩ := hs
  rw [exec_count hs, if_neg hmax, launch_count hf hp]

/-- Settles O19: below the limit COUNT is its one step, and at the limit the check of TOTAL_LEN answers. -/
theorem countAddsOne : Obligations.CountAddsOne := by
  intro b s hs
  constructor
  · intro hmax hp
    exact ⟨s.countByte b, exec_count_below hs hmax hp, rfl, rfl, s.freqAt_countByte_same b, fun c hc => s.freqAt_countByte_ne hc, rfl⟩
  · intro hmax
    rw [exec_count hs, if_pos hmax]

/-- No symbol was counted more often than all symbols together (10_state.md R39). -/
theorem freqAt_le_totalLen {s : State} (h : s.FreqInv) (b : Byte) : (s.freqAt b).toNat ≤ s.totalLen.toNat := by
  rw [h.1]
  exact List.le_sum_of_mem (List.mem_map_of_mem ((Table.mem_entries 0).2 ⟨b, rfl⟩))

/-- COUNT below the limit, as numbers: every frequency grows by what the one byte contributes. -/
theorem toNat_freqAt_countByte {s : State} (h : s.FreqInv) (hlt : s.totalLen.toNat + 1 < 2 ^ 32) (b c : Byte) :
    ((s.countByte b).freqAt c).toNat = (s.freqAt c).toNat + [b].count c := by
  by_cases hc : c = b
  · subst hc
    have hle := freqAt_le_totalLen h c
    rw [State.freqAt_countByte_same, List.count_singleton_self]
    exact toNat_add_one (by omega)
  · rw [State.freqAt_countByte_ne hc, List.count_singleton, if_neg (by simpa using Ne.symm hc), Nat.add_zero]

theorem runCommands_cons {i : Instr} {is : List Instr} {s t : State} (h : exec i s = .next t) :
    runCommands (i :: is) s = runCommands is t := by
  rw [runCommands, h]

/-- Settles O20, by induction on the bytes: each COUNT stays below the limit, so it neither errs nor wraps a counter. -/
theorem countsAreOrderFree : Obligations.CountsAreOrderFree := by
  intro bs
  induction bs with
  | nil => exact fun s _ _ h _ => ⟨s, rfl, rfl, fun _ => rfl, rfl, h⟩
  | cons b bs ih =>
    intro s hs hp h hlt
    rw [List.length_cons] at hlt ⊢
    have hlimit : s.totalLen.toNat + 1 < 2 ^ 32 := by omega
    have hmax : s.totalLen ≠ 0xFFFFFFFF := fun e => by rw [e] at hlimit; exact absurd hlimit (by decide)
    have htotal : (s.countByte b).totalLen.toNat = s.totalLen.toNat + 1 := toNat_add_one hlimit
    obtain ⟨t, hrun, hframe, hfreq, hlen, hinv⟩ := ih (s.countByte b) hs hp (freqInv_countByte h hmax b) (by omega)
    refine ⟨t, (runCommands_cons (exec_count_below hs hmax hp)).trans hrun, hframe, fun c => ?_, by omega, hinv⟩
    rw [hfreq, toNat_freqAt_countByte h hlimit, Nat.add_assoc, ← List.count_append, List.singleton_append]

/-- Settles O21: BUILD passes the checks of every command, and then meets NSYM = 0. -/
theorem emptyBuildIsRejected : Obligations.EmptyBuildIsRejected := by
  intro s hs hn
  obtain ⟨he, hf, hc⟩ := hs
  rw [exec_legal (i := .build) he hf rfl (decide_eq_true hc), familyRule, if_pos hn]
  rfl

end Sys2Proof.Machine

namespace Sys2Proof.Machine

/-! ### The heap operations and BUILD's merges (41_heap.md R187) -/

/-- Settles O31: each operation has its own lemma of the order, and `extract_min` takes an entry of least rank. -/
theorem heapOperationsKeepTheOrder : Obligations.HeapOperationsKeepTheOrder := by
  intro tie nodes h hs
  refine ⟨Heap.build_ordered hs, fun ho _ _ hi => Heap.insert_ordered ho hi, fun ho m h' he => ?_⟩
  obtain ⟨ho', hmin⟩ := Heap.extractMin_ordered hs ho he
  exact ⟨ho', fun j hj => less_eq_false.2 (hmin _ (List.mem_cons_of_mem _ (Heap.mem_live.2 ⟨j, hj, rfl⟩)))⟩

/-- The state in which BUILD starts on its work: the tie mode sampled, the command in flight (42_tree.md R210, R211). -/
def State.building (s : State) : State := { s with tieUsed := s.tie, flight := .build }

theorem exec_build {s : State} (hs : s.Accepting .collect) (hn : s.nsym ≠ 0) :
    exec .build s = launch .build { s with tieUsed := s.tie } := by
  obtain ⟨he, hf, hc⟩ := hs
  rw [exec_legal (i := .build) he hf rfl (decide_eq_true hc), familyRule, if_neg hn]

/-- At pace `full` an accepted BUILD ends with its one step (notes/assumptions/5.md). -/
theorem exec_build_done {s u : State} (hs : s.Accepting .collect) (hp : s.pace = .full) (hn : s.nsym ≠ 0)
    (hu : s.building.buildCodes = .ok u) : exec .build s = .next { u with flight := .idle } := by
  rw [exec_build hs hn]
  exact launch_of_length_one hp rfl (coreStep_build rfl hu)

/-- What BUILD leaves in a state that takes it: the tables of READY, made by `buildCodes`. -/
theorem buildCodes_of_exec_build {s t : State} (hs : s.Buildable) (h : exec .build s = .next t) :
    ∃ u, s.building.buildCodes = .ok u ∧ u.Built ∧ t = { u with flight := .idle } := by
  obtain ⟨hacc, hp, hfreq, hn, hcol⟩ := hs
  have ⟨_, _, hc⟩ := hacc
  obtain ⟨u, hu, hbuilt, -⟩ := State.buildCodes_built (s := s.building) hc hcol hfreq hn
  rw [exec_build_done hacc hp hn hu] at h
  exact ⟨u, hu, hbuilt, (Host.Outcome.next.inj h).symm⟩

/-- Settles O26: BUILD leaves the tables of READY, and NSYM as it was. -/
theorem mergesTakeTheLightestNodes : Obligations.MergesTakeTheLightestNodes := by
  intro s t hs h
  obtain ⟨u, hu, ⟨-, -, -, -, hmerges, -⟩, rfl⟩ := buildCodes_of_exec_build hs h
  have hnsym : u.nsym = s.nsym := by rw [State.buildCodes_frame hu]; rfl
  rwa [LightestMergedFirst, hnsym] at hmerges

end Sys2Proof.Machine

namespace Sys2Proof.Machine

/-! ### What BUILD leaves does not depend on the entries HEAP held (41_heap.md R188)

Two heaps with the same live entries go through every operation alike, so what lies above HSIZE is never read. -/

/-- Two heaps that differ in nothing but the entries above HSIZE. -/
structure Heap.Agree (h k : Heap) : Prop where
  size : k.size = h.size
  entry : ∀ i, i < h.size → k.at i = h.at i

theorem Heap.Agree.put {h k : Heap} (a : h.Agree k) (i : Nat) (x : NodeIdx) : (h.put i x).Agree (k.put i x) where
  size := a.size
  entry j hj := by rw [Heap.at_put, Heap.at_put, a.entry j hj]

theorem Heap.Agree.swap {h k : Heap} (a : h.Agree k) {i j : Nat} (hi : i < h.size) (hj : j < h.size) :
    (h.swap i j).Agree (k.swap i j) := by
  unfold Heap.swap
  rw [a.entry i hi, a.entry j hj]
  exact (a.put i _).put j _

/-- Entries taken off the end are forgotten on both sides. -/
theorem Heap.Agree.shrink {h k : Heap} (a : h.Agree k) {n : Nat} (hn : n ≤ h.size) :
    Heap.Agree { h with size := n } { k with size := n } where
  size := rfl
  entry i hi := a.entry i (lt_of_lt_of_le hi hn)

/-- An entry appended is the same on both sides. -/
theorem Heap.Agree.append {h k : Heap} (a : h.Agree k) (hs : h.size < 256) (x : NodeIdx) :
    Heap.Agree { h.put h.size x with size := h.size + 1 } { k.put h.size x with size := h.size + 1 } where
  size := rfl
  entry i hi := by
    simp only [Heap.at_resize, Heap.at_put]
    split_ifs with he
    · rfl
    · exact a.entry i (by have hi : i < h.size + 1 := hi; omega)

section
variable (tie : Bool) (nodes : Table Node 511)

/-- A test of `sift_down` compares live entries only. -/
theorem Heap.Agree.test {h k : Heap} (a : h.Agree k) (c : Nat) {m : Nat} (hm : m < h.size) :
    (decide (c < k.size) && less tie nodes (k.at c) (k.at m)) = (decide (c < h.size) && less tie nodes (h.at c) (h.at m)) := by
  rw [a.size, a.entry m hm]
  by_cases hc : c < h.size
  · rw [a.entry c hc]
  · simp [hc]

theorem Heap.Agree.smallest {h k : Heap} (a : h.Agree k) {i : Nat} (hi : i < h.size) :
    k.smallest tie nodes i = h.smallest tie nodes i := by
  simp only [Heap.smallest, a.test tie nodes _ hi]
  rw [a.test]
  split_ifs with hl
  · exact of_decide_eq_true (Bool.and_eq_true_iff.1 hl).1
  · exact hi

theorem Heap.Agree.siftDown (fuel : Nat) {i : Nat} {h k : Heap} (a : h.Agree k) (hi : i < h.size) :
    (Heap.siftDown tie nodes fuel i h).Agree (Heap.siftDown tie nodes fuel i k) := by
  induction fuel generalizing i h k with
  | zero => exact a
  | succ fuel ih =>
    have hm := Heap.smallest_lt (tie := tie) (nodes := nodes) hi
    simp only [Heap.siftDown, a.smallest tie nodes hi]
    split
    · exact a
    · exact ih (a.swap hi hm) hm

theorem Heap.Agree.siftUp (fuel : Nat) {i : Nat} {h k : Heap} (a : h.Agree k) (hi : i < h.size) :
    (Heap.siftUp tie nodes fuel i h).Agree (Heap.siftUp tie nodes fuel i k) := by
  induction fuel generalizing i h k with
  | zero => exact a
  | succ fuel ih =>
    have hp : (i - 1) / 2 < h.size := by omega
    simp only [Heap.siftUp, a.entry i hi, a.entry _ hp]
    split
    · exact ih (a.swap hi hp) hp
    · exact a

theorem Heap.Agree.heapify (n : Nat) {h k : Heap} (a : h.Agree k) (hn : n ≤ h.size) :
    (Heap.heapify tie nodes n h).Agree (Heap.heapify tie nodes n k) := by
  induction n generalizing h k with
  | zero => exact a
  | succ n ih =>
    simp only [Heap.heapify, a.size]
    exact ih (a.siftDown tie nodes h.size hn) (by simp; omega)

theorem Heap.Agree.build {h k : Heap} (a : h.Agree k) : (h.build tie nodes).Agree (k.build tie nodes) := by
  unfold Heap.build
  rw [a.size]
  exact a.heapify tie nodes _ (Nat.div_le_self _ _)

variable {tie nodes}

theorem Heap.Agree.insert {n : NodeIdx} {h k h' : Heap} (a : h.Agree k) (hi : h.insert tie nodes n = .ok h') :
    ∃ k', k.insert tie nodes n = .ok k' ∧ h'.Agree k' := by
  unfold Heap.insert at hi ⊢
  rw [a.size]
  split at hi
  · rename_i hs
    obtain rfl := Except.ok.inj hi
    exact ⟨_, if_pos hs, (a.append hs n).siftUp tie nodes h.size (Nat.lt_succ_self _)⟩
  · cases hi

theorem Heap.Agree.extractMin {m : NodeIdx} {h k h' : Heap} (a : h.Agree k) (he : h.extractMin tie nodes = .ok (m, h')) :
    ∃ k', k.extractMin tie nodes = .ok (m, k') ∧ h'.Agree k' := by
  unfold Heap.extractMin at he ⊢
  split at he
  · cases he
  · rename_i h0
    obtain ⟨rfl, rfl⟩ := Prod.mk.inj (Except.ok.inj he)
    have hlast := (a.put 0 (h.at (h.size - 1))).shrink (n := h.size - 1) (Nat.sub_le _ _)
    rw [a.size, if_neg h0, a.entry 0 (by omega), a.entry (h.size - 1) (by omega)]
    refine ⟨_, rfl, ?_⟩
    dsimp only
    split
    · rename_i hpos
      exact hlast.siftDown tie nodes _ hpos
    · exact hlast

end

/-- Every way a turn of the merge loop can succeed (42_tree.md R214). -/
theorem mergeOnce_eq_ok {tie : Bool} {t u : TreeWork} :
    mergeOnce tie t = .ok u ↔
      ∃ l h₁ r h₂ h₃, t.heap.extractMin tie t.nodes = .ok (l, h₁) ∧ h₁.extractMin tie t.nodes = .ok (r, h₂) ∧
        ¬ 2 ^ 32 ≤ (nodeAt t.nodes l).w.toNat + (nodeAt t.nodes r).w.toNat ∧ ¬ Config.nodeMax ≤ t.nnodes ∧
        h₂.insert tie (t.nodes.write t.nnodes (internalNode t.nodes l r)) (BitVec.ofNat 9 t.nnodes) = .ok h₃ ∧
        u = ⟨t.nodes.write t.nnodes (internalNode t.nodes l r), t.nnodes + 1, h₃⟩ := by
  constructor
  · intro h
    unfold mergeOnce at h
    split at h
    · cases h
    · rename_i l h₁ e₁
      split at h
      · cases h
      · rename_i r h₂ e₂
        split at h
        · cases h
        · rename_i hw
          split at h
          · cases h
          · rename_i hroom
            dsimp only at h
            split at h
            · cases h
            · rename_i h₃ e₃
              exact ⟨l, h₁, r, h₂, h₃, e₁, e₂, hw, hroom, e₃, (Except.ok.inj h).symm⟩
  · rintro ⟨l, h₁, r, h₂, h₃, e₁, e₂, hw, hroom, e₃, rfl⟩
    unfold mergeOnce
    simp only [e₁, e₂, e₃, if_neg hw, if_neg hroom]

/-- Two states of the work on the tree that differ in nothing but the entries of HEAP above HSIZE. -/
structure TreeWork.Agree (t u : TreeWork) : Prop where
  nodes : u.nodes = t.nodes
  nnodes : u.nnodes = t.nnodes
  heap : t.heap.Agree u.heap

theorem TreeWork.Agree.mergeOnce {tie : Bool} {t u t' : TreeWork} (a : t.Agree u) (h : mergeOnce tie t = .ok t') :
    ∃ u', mergeOnce tie u = .ok u' ∧ t'.Agree u' := by
  obtain ⟨l, h₁, r, h₂, h₃, e₁, e₂, hw, hroom, e₃, rfl⟩ := mergeOnce_eq_ok.1 h
  obtain ⟨k₁, f₁, a₁⟩ := a.heap.extractMin e₁
  obtain ⟨k₂, f₂, a₂⟩ := a₁.extractMin e₂
  obtain ⟨k₃, f₃, a₃⟩ := a₂.insert e₃
  rw [← a.nodes] at f₁ f₂ hw
  rw [← a.nnodes] at hroom
  rw [← a.nodes, ← a.nnodes] at f₃
  exact ⟨_, mergeOnce_eq_ok.2 ⟨l, k₁, r, k₂, k₃, f₁, f₂, hw, hroom, f₃, rfl⟩, by rw [a.nodes, a.nnodes], by rw [a.nnodes], a₃⟩

theorem TreeWork.Agree.mergeLoop {tie : Bool} {fuel : Nat} {t u t' : TreeWork} (a : t.Agree u) (h : mergeLoop tie fuel t = .ok t') :
    ∃ u', mergeLoop tie fuel u = .ok u' ∧ t'.Agree u' := by
  induction fuel generalizing t u with
  | zero =>
    obtain rfl := Except.ok.inj h
    exact ⟨u, rfl, a⟩
  | succ fuel ih =>
    unfold Machine.mergeLoop at h ⊢
    rw [a.heap.size]
    split at h
    · rename_i h1
      obtain rfl := Except.ok.inj h
      exact ⟨u, if_pos h1, a⟩
    · rename_i h1
      split at h
      · cases h
      · rename_i v hv
        obtain ⟨w, hw, a'⟩ := a.mergeOnce hv
        rw [if_neg h1, hw]
        exact ih a' h

/-- `init_heap` writes every entry up to HSIZE, whatever HEAP held (42_tree.md R213). -/
theorem plantLeaves_agree (tie : Bool) (freq : Table Word 256) (nodes : Table Node 511) (slot slot' : Table NodeIdx 256) :
    (plantLeaves tie freq nodes slot).Agree (plantLeaves tie freq nodes slot') where
  nodes := rfl
  nnodes := rfl
  heap := by
    have hL := length_leavesOf_le freq
    refine Heap.Agree.build tie _ ⟨rfl, fun i hi => ?_⟩
    have hi : i < (leavesOf freq).length := hi
    simp only [Heap.at]
    rw [Table.read_writeFrom _ _ _ _ _ (by simpa using hL), Table.read_writeFrom _ _ _ _ _ (by simpa using hL),
      if_pos (by simpa using hi), if_pos (by simpa using hi)]

/-- The tree of a frequency table does not depend on what HEAP held. -/
theorem buildTree_ignores_heap {tie : Bool} {freq : Table Word 256} {nodes : Table Node 511} {slot : Table NodeIdx 256} {root : NodeIdx}
    {t : TreeWork} (h : buildTree tie freq nodes slot = .ok (root, t)) (slot' : Table NodeIdx 256) :
    ∃ u, buildTree tie freq nodes slot' = .ok (root, u) ∧ t.Agree u := by
  have a := plantLeaves_agree tie freq nodes slot slot'
  unfold buildTree at h ⊢
  dsimp only at h ⊢
  split at h
  · cases h
  · rename_i v hv
    obtain ⟨v', hv', a'⟩ := a.mergeLoop hv
    split at h
    · cases h
    · rename_i m h₁ he
      obtain ⟨rfl, rfl⟩ := Prod.mk.inj (Except.ok.inj h)
      obtain ⟨k₁, hk, ah⟩ := a'.heap.extractMin he
      rw [a.heap.size, hv']
      simp only [a'.nodes, hk]
      exact ⟨_, rfl, ⟨rfl, a'.nnodes, ah⟩⟩

/-- What `buildCodes` writes comes from the tie mode, the frequencies and the tables as they stood, and not from HEAP. -/
theorem buildCodes_ignores_heap {s s' u u' : State} (htie : s.tieUsed = s'.tieUsed) (hfreq : s.freq = s'.freq) (hnode : s.node = s'.node)
    (hlen : s.codeLen = s'.codeLen) (hval : s.codeVal = s'.codeVal) (h : s.buildCodes = .ok u) (h' : s'.buildCodes = .ok u') :
    u.node = u'.node ∧ u.nnodes = u'.nnodes ∧ u.root = u'.root ∧ u.codeLen = u'.codeLen ∧ u.codeVal = u'.codeVal ∧
    u.maxLen = u'.maxLen ∧ u.expBits = u'.expBits ∧ u.tieUsed = u'.tieUsed := by
  unfold State.buildCodes at h h'
  rw [← htie, ← hfreq, ← hnode, ← hlen, ← hval] at h'
  split at h
  · cases h
  · rename_i root t ht
    obtain ⟨w, hw, a⟩ := buildTree_ignores_heap ht s'.heap.slot
    simp only [hw, a.nodes, a.nnodes] at h'
    split at h
    · cases h
    · rename_i c hc
      simp only [hc] at h'
      obtain rfl := Except.ok.inj h
      obtain rfl := Except.ok.inj h'
      exact ⟨rfl, rfl, rfl, rfl, rfl, rfl, rfl, rfl⟩

/-- Settles O32: BUILD starts from the same empty tables in both states, and does not read what HEAP held. -/
theorem buildDependsOnFrequenciesAndTieAlone : Obligations.BuildDependsOnFrequenciesAndTieAlone := by
  intro s s' t t' hs hs' hfreq htie h h'
  obtain ⟨u, hu, -, rfl⟩ := buildCodes_of_exec_build hs h
  obtain ⟨u', hu', -, rfl⟩ := buildCodes_of_exec_build hs' h'
  obtain ⟨⟨-, -, hc⟩, -, -, -, hcol⟩ := hs
  obtain ⟨⟨-, -, hc'⟩, -, -, -, hcol'⟩ := hs'
  obtain ⟨hnode, -, -, hlen, hval, -⟩ := hcol hc
  obtain ⟨hnode', -, -, hlen', hval', -⟩ := hcol' hc'
  have hsame := buildCodes_ignores_heap (s := s.building) (s' := s'.building) htie hfreq (hnode.trans hnode'.symm)
    (hlen.trans hlen'.symm) (hval.trans hval'.symm) hu hu'
  exact hsame

end Sys2Proof.Machine

namespace Sys2Proof.Machine

/-! ### The tree BUILD leaves (42_tree.md R212, R214, R216, R217) -/

/-- BUILD writes neither the counters nor the frequencies (42_tree.md R210). -/
theorem counters_of_buildCodes {s u : State} (hu : s.building.buildCodes = .ok u) :
    u.nsym = s.nsym ∧ u.totalLen = s.totalLen ∧ u.freqAt = s.freqAt := by
  rw [State.buildCodes_frame hu]
  exact ⟨rfl, rfl, rfl⟩

/-- Settles O24: BUILD leaves the tables of READY, and the counters as they were. -/
theorem leavesStandInSymbolOrder : Obligations.LeavesStandInSymbolOrder := by
  intro s t hs h
  obtain ⟨u, hu, ⟨-, -, hleaves, -⟩, rfl⟩ := buildCodes_of_exec_build hs h
  obtain ⟨hnsym, -, hfreq⟩ := counters_of_buildCodes hu
  rwa [LeavesInOrder, hnsym, hfreq] at hleaves

/-- Settles O25: BUILD leaves the tables of READY, and NSYM as it was. -/
theorem internalNodesFormATree : Obligations.InternalNodesFormATree := by
  intro s t hs h
  obtain ⟨u, hu, ⟨-, -, -, htree, -⟩, rfl⟩ := buildCodes_of_exec_build hs h
  obtain ⟨hnsym, -, -⟩ := counters_of_buildCodes hu
  rwa [InternalNodesOverLeaves, hnsym] at htree

/-- Settles O27: BUILD leaves the tables of READY, and TOTAL_LEN as it was. -/
theorem rootWeighsTheWholeInput : Obligations.RootWeighsTheWholeInput := by
  intro s t hs h
  obtain ⟨u, hu, ⟨-, -, -, -, -, hroot, -⟩, rfl⟩ := buildCodes_of_exec_build hs h
  obtain ⟨-, htotal, -⟩ := counters_of_buildCodes hu
  rwa [RootHeaviest, htotal] at hroot

end Sys2Proof.Machine

namespace Sys2Proof.Machine

/-! ### The core never reads CTRL.TIE (42_tree.md R211) -/

/-- The state with another value in CTRL.TIE. -/
def State.withTie (v : Bool) (s : State) : State := { s with tie := v }

section
variable (v : Bool) (s : State)

theorem writeBit_withTie (b : Bool) : (s.withTie v).writeBit b = (s.writeBit b).withTie v := by
  unfold State.writeBit State.withTie; split <;> rfl

theorem flushHeld_withTie : (s.withTie v).flushHeld = s.flushHeld.withTie v := by
  unfold State.flushHeld State.withTie; split <;> rfl

theorem buildCodes_withTie : (s.withTie v).buildCodes = s.buildCodes.map (State.withTie v) := by
  unfold State.buildCodes State.withTie
  dsimp only
  split
  · rfl
  · split <;> rfl

theorem coreStep_withTie : coreStep (s.withTie v) = (coreStep s).map (State.withTie v) := by
  cases hf : s.flight with
  | idle => rw [coreStep_idle hf, coreStep_idle (s := s.withTie v) hf]; rfl
  | count b => rw [coreStep_count hf, coreStep_count (s := s.withTie v) hf]; rfl
  | build =>
    have hf' : (s.withTie v).flight = .build := hf
    simp only [coreStep, hf, hf', buildCodes_withTie]
    cases s.buildCodes <;> rfl
  | write bits n e =>
    cases bits with
    | nil => rw [coreStep_write_nil hf, coreStep_write_nil (s := s.withTie v) hf]; rfl
    | cons b bs =>
      by_cases hroom : s.bitcnt ≠ 7 ∨ s.fifoFull = false
      · rw [coreStep_write_bit hf hroom, coreStep_write_bit (s := s.withTie v) hf hroom, writeBit_withTie]; rfl
      · obtain ⟨h7, hfull⟩ : s.bitcnt = 7 ∧ s.fifoFull = true := by simpa using hroom
        rw [coreStep_write_wait hf h7 hfull, coreStep_write_wait (s := s.withTie v) hf h7 hfull]; rfl
  | flush =>
    by_cases hroom : s.bitcnt = 0 ∨ s.fifoFull = false
    · rw [coreStep_flush hf hroom, coreStep_flush (s := s.withTie v) hf hroom, flushHeld_withTie]; rfl
    · obtain ⟨h0, hfull⟩ : s.bitcnt ≠ 0 ∧ s.fifoFull = true := by simpa using hroom
      rw [coreStep_flush_wait hf h0 hfull, coreStep_flush_wait (s := s.withTie v) hf h0 hfull]; rfl

theorem coreSteps_withTie (k : Nat) : coreSteps k (s.withTie v) = (coreSteps k s).map (State.withTie v) := by
  induction k generalizing s with
  | zero => rfl
  | succ k ih =>
    simp only [coreSteps, coreStep_withTie]
    cases coreStep s with
    | error f => rfl
    | ok u => exact ih u

end

/-- Settles O33: BUILD samples CTRL.TIE before the core moves, no step of the core writes TIE_USED, and none reads CTRL.TIE. -/
theorem tieIsSampledWhenBuildStarts : Obligations.TieIsSampledWhenBuildStarts := by
  constructor
  · intro s t hs hn h
    rw [exec_build hs hn] at h
    obtain ⟨-, -, htie, -⟩ := advance_frame (settle_eq_next.1 h)
    exact htie
  · intro s t k v h
    exact (coreSteps_withTie v s k).trans (by rw [h]; rfl)

end Sys2Proof.Machine

namespace Sys2Proof.Machine

/-! ### BUILD over any arena (42_tree.md R210 to R217)

Only the nodes already made are read, so what stood in the arena and in the code table before BUILD does not matter to its completion. -/

/-- The tree is held in every arena with the same nodes up to its root. -/
theorem Holds.congr {nodes nodes' : Table Node 511} {i : NodeIdx} {T : CodeTree} (h : Holds nodes i T) {n : Nat} (hi : i.toNat < n)
    (hsame : ∀ j, j < n → nodes'.read Node.zero j = nodes.read Node.zero j) : Holds nodes' i T := by
  have same {j : NodeIdx} (hj : j.toNat < n) : nodeAt nodes' j = nodeAt nodes j := hsame _ hj
  induction h with
  | leaf hk => rw [← same hi]; exact .leaf (by rwa [same hi])
  | node hk hl hr _ _ ihl ihr =>
    rw [← same hi] at hk hl hr ihl ihr
    exact .node hk hl hr (ihl (by omega)) (ihr (by omega))

/-- The heap order looks at the nodes in the heap alone. -/
theorem Heap.Ordered.congr {tie : Bool} {nodes nodes' : Table Node 511} {h : Heap} (ho : h.Ordered tie nodes)
    (hsame : ∀ x ∈ h.live, nodes'.read Node.zero x.toNat = nodes.read Node.zero x.toNat) : h.Ordered tie nodes' := by
  have hrank {j : Nat} (hj : j < h.size) : rank tie nodes' (h.at j) = rank tie nodes (h.at j) := by
    unfold rank nodeAt
    rw [hsame _ (Heap.mem_live.2 ⟨j, hj, rfl⟩)]
  intro j h₁ h₂
  rw [less_eq_rank, hrank h₂, hrank (show (j - 1) / 2 < h.size by omega), ← less_eq_rank]
  exact ho j h₁ h₂

/-- Two states of the work on the tree that differ in nothing but the nodes not yet made. -/
structure TreeWork.SameMade (t u : TreeWork) : Prop where
  nnodes : u.nnodes = t.nnodes
  heap : u.heap = t.heap
  node : ∀ j, j < t.nnodes → u.nodes.read Node.zero j = t.nodes.read Node.zero j

theorem TreeWork.SameMade.symm {t u : TreeWork} (a : t.SameMade u) : u.SameMade t where
  nnodes := a.nnodes.symm
  heap := a.heap.symm
  node j hj := (a.node j (a.nnodes ▸ hj)).symm

theorem TreeWork.SameMade.weight {t u : TreeWork} (a : t.SameMade u) {j : Nat} (hj : j < t.nnodes) :
    weightAt u.nodes j = weightAt t.nodes j := by
  rw [weightAt, a.node j hj]

theorem TreeWork.SameMade.internalNode {t u : TreeWork} (a : t.SameMade u) {l r : NodeIdx} (hl : l.toNat < t.nnodes)
    (hr : r.toNat < t.nnodes) : internalNode u.nodes l r = internalNode t.nodes l r := by
  simp only [Machine.internalNode, nodeAt, a.node _ hl, a.node _ hr]

/-- The heap's entries are nodes already made. -/
abbrev TreeWork.HeapMade (t : TreeWork) : Prop := ∀ x ∈ t.heap.live, x.toNat < t.nnodes

theorem TreeWork.SameMade.ordered {tie : Bool} {t u : TreeWork} (a : t.SameMade u) (hlt : t.HeapMade)
    (ho : t.heap.Ordered tie t.nodes) : u.heap.Ordered tie u.nodes := by
  rw [a.heap]
  exact ho.congr fun x hx => a.node _ (hlt x hx)

section
variable {tie : Bool} {t t' u : TreeWork} {l r : NodeIdx} {rest : List NodeIdx}

theorem MergeStep.heapMade (m : MergeStep tie t t' l r rest) (hlt : t.HeapMade) : t'.HeapMade := by
  intro x hx
  rw [m.nnodes]
  rcases m.mem_after.1 hx with rfl | hx
  · rw [m.toNat_new]
    exact Nat.lt_succ_self _
  · exact (hlt x (m.mem_before.2 (.inr (.inr hx)))).trans (Nat.lt_succ_self _)

/-- The node over the same two nodes is the same. -/
theorem TreeWork.SameMade.merge (a : t.SameMade u) (m : MergeStep tie t t' l r rest) (hl : l.toNat < t.nnodes)
    (hr : r.toNat < t.nnodes) :
    t'.SameMade ⟨u.nodes.write u.nnodes (Machine.internalNode u.nodes l r), u.nnodes + 1, t'.heap⟩ where
  nnodes := by rw [a.nnodes, m.nnodes]
  heap := rfl
  node j hj := by
    rw [m.nnodes] at hj
    simp only [a.nnodes, a.internalNode hl hr, m.nodes]
    by_cases hnew : j = t.nnodes
    · rw [hnew, Table.read_write_same _ _ _ m.room, Table.read_write_same _ _ _ m.room]
    · rw [read_write_arena hnew, read_write_arena hnew]
      exact a.node j (by omega)

/-- A turn of the merge loop is such a turn on both sides. -/
theorem MergeStep.transfer (m : MergeStep tie t t' l r rest) (a : t.SameMade u)
    (hlt : t.HeapMade) : ∃ u', MergeStep tie u u' l r rest ∧ t'.SameMade u' := by
  have hl : l.toNat < t.nnodes := hlt l (m.mem_before.2 (.inl rfl))
  have hr : r.toNat < t.nnodes := hlt r (m.mem_before.2 (.inr (.inl rfl)))
  have hrest (x : NodeIdx) (hx : x ∈ rest) : x.toNat < t.nnodes := hlt x (m.mem_before.2 (.inr (.inr hx)))
  have a' := a.merge m hl hr
  exact ⟨_, {
    room := a.nnodes ▸ m.room
    before := a.heap ▸ m.before
    after := a.nnodes ▸ m.after
    size := a.heap ▸ m.size
    nnodes := rfl
    nodes := rfl
    ordered := a'.ordered (m.heapMade hlt) m.ordered
    leftLightest := fun x hx => by
      rw [a.weight hl, a.weight (by rcases List.mem_cons.1 hx with rfl | hx; exacts [hr, hrest x hx])]
      exact m.leftLightest x hx
    rightNext := fun x hx => by
      rw [a.weight hr, a.weight (hrest x hx)]
      exact m.rightNext x hx }, a'⟩

end

/-- The nodes already made are those of a forest over the leaves; what else stands in the arena is free. -/
def Grown (tie : Bool) (L : List Node) (t : TreeWork) : Prop := ∃ u, t.SameMade u ∧ Forest tie L u

/-- A turn of the merge loop succeeds over any arena, and leaves one root fewer. -/
theorem Grown.mergeOnce {tie : Bool} {L : List Node} {t : TreeWork} (h : Grown tie L t) (hL : L.length ≤ 256)
    (hfits : totalWeight L < 2 ^ 32) (h2 : 2 ≤ t.heap.size) :
    ∃ t', mergeOnce tie t = .ok t' ∧ Grown tie L t' ∧ t'.heap.size = t.heap.size - 1 := by
  obtain ⟨u, a, hf⟩ := h
  have hlt : t.HeapMade := fun x hx => a.nnodes ▸ hf.lt x (a.heap.symm ▸ hx)
  have hcount := hf.count
  have hgrown := hf.arena.grown
  rw [a.heap] at hcount
  rw [a.nnodes] at hcount hgrown
  obtain ⟨t', l, r, rest, e, m⟩ := mergeOnce_mergeStep h2 (by omega) (by omega)
    (a.symm.ordered hf.lt hf.ordered) hlt fun l r rest hp => by
      have hsum := hf.total_before (a.heap.symm ▸ hp)
      have hl : l.toNat < t.nnodes := hlt l (hp.mem_iff.2 (by simp))
      have hr : r.toNat < t.nnodes := hlt r (hp.mem_iff.2 (by simp))
      rw [a.weight hl, a.weight hr] at hsum
      omega
  obtain ⟨u', m', a'⟩ := m.transfer a hlt
  exact ⟨t', e, ⟨u', a', hf.merge m' hfits (a.heap.symm ▸ h2)⟩, m.size⟩

/-- So the merge loop ends with one root over any arena. -/
theorem Grown.mergeLoop {tie : Bool} {L : List Node} {fuel : Nat} {t : TreeWork} (h : Grown tie L t) (hL : L.length ≤ 256)
    (hfits : totalWeight L < 2 ^ 32) (hfuel : t.heap.size ≤ fuel + 1) :
    ∃ t', mergeLoop tie fuel t = .ok t' ∧ Grown tie L t' ∧ t'.heap.size = 1 := by
  have hpos : 0 < t.heap.size := by
    obtain ⟨u, a, hf⟩ := h
    exact a.heap ▸ hf.nonempty
  induction fuel generalizing t with
  | zero => exact ⟨t, rfl, h, by omega⟩
  | succ fuel ih =>
    unfold Machine.mergeLoop
    split
    · exact ⟨t, rfl, h, by omega⟩
    · obtain ⟨v, hv, hgrown, hsize⟩ := h.mergeOnce hL hfits (by omega)
      rw [hv]
      exact ih hgrown (by omega) (by omega)

/-- `make_leaves` and `init_heap` over any arena: the nodes made are the leaves (42_tree.md R212, R213). -/
theorem grown_plantLeaves (tie : Bool) {freq : Table Word 256} (hne : leavesOf freq ≠ []) (nodes : Table Node 511)
    (slot : Table NodeIdx 256) : Grown tie (leavesOf freq) (plantLeaves tie freq nodes slot) := by
  have hL := length_leavesOf_le freq
  have hlive := live_plantLeaves tie freq nodes slot
  have hread := read_plantLeaves tie freq slot
  have a : (plantLeaves tie freq nodes slot).SameMade
      ⟨(plantLeaves tie freq (.fill Node.zero) slot).nodes, (leavesOf freq).length, (plantLeaves tie freq nodes slot).heap⟩ := {
    nnodes := rfl
    heap := rfl
    node := fun j hj => by
      have hj : j < (leavesOf freq).length := hj
      refine (hread j).trans (.symm ((Table.read_writeFrom (leavesOf freq) nodes Node.zero 0 j (by omega)).trans ?_))
      rw [if_pos ⟨Nat.zero_le _, by omega⟩, Nat.sub_zero] }
  have hlt : (plantLeaves tie freq nodes slot).HeapMade := fun x hx => by
    obtain ⟨k, hk, rfl⟩ := List.mem_map.1 (hlive.mem_iff.1 hx)
    exact (Nat.mod_le _ _).trans_lt (List.mem_range.1 hk)
  exact ⟨_, a, forest_of_leaves hne hL (fun x hx => ((leavesOf_spec freq).leaf x hx).1) hread rfl hlive
    (a.ordered hlt (Heap.build_ordered hL))⟩

/-- BUILD's steps up to the root succeed over any arena, with the root last of 2N - 1 nodes and a tree of N leaves at it. -/
theorem buildTree_completes (tie : Bool) {freq : Table Word 256} (hne : leavesOf freq ≠ [])
    (hfits : totalWeight (leavesOf freq) < 2 ^ 32) (nodes : Table Node 511) (slot : Table NodeIdx 256) :
    ∃ root t T, buildTree tie freq nodes slot = .ok (root, t) ∧ t.nnodes = 2 * (leavesOf freq).length - 1 ∧
      root.toNat = 2 * (leavesOf freq).length - 2 ∧ t.heap.size = 0 ∧ Holds t.nodes root T ∧
      T.syms.length = (leavesOf freq).length := by
  have hL := length_leavesOf_le freq
  obtain ⟨t, ht, ⟨u, a, hf⟩, h1⟩ := (grown_plantLeaves tie hne nodes slot).mergeLoop hL hfits (Nat.le_succ _)
  obtain ⟨h', he, hs', hp⟩ := Heap.extractMin_spec tie t.nodes (h := t.heap) (by omega) (by omega)
  obtain ⟨root, hroot⟩ := List.length_eq_one_iff.1 (t.heap.length_live.trans h1)
  have hat : t.heap.at 0 = root := by simpa [hroot] using (hp.mem_iff (a := t.heap.at 0)).2 (by simp)
  have hcount := hf.count
  have hnewest := hf.newest
  obtain ⟨F, hF, hperm⟩ := hf.trees
  rw [a.heap] at hcount hnewest hF hperm
  rw [a.nnodes] at hcount hnewest
  rw [hroot] at hnewest hF hperm
  have hnewest : root.toNat + 1 = t.nnodes := by simpa using hnewest
  refine ⟨root, { t with heap := h' }, F root, ?_, ?_, by omega, ?_, ?_, ?_⟩
  · unfold buildTree
    simp only [ht, he, hat]
  · simp only; omega
  · simp only; omega
  · exact (hF root (by simp)).congr (by rw [a.nnodes]; omega) a.symm.node
  · simpa using hperm.length_eq

/-- `gen_codes()` over any code table succeeds (43_codegen.md R240, R242). -/
theorem genCodes_completes {nodes : Table Node 511} {root : NodeIdx} {T : CodeTree} (h : Holds nodes root T)
    (hlen : T.syms.length ≤ 256) (c : CodeTable) : ∃ c', genCodes nodes root T.syms.length c = .ok c' := by
  by_cases h1 : T.syms.length = 1
  · exact ⟨_, if_pos h1⟩
  · have hsize := T.size_eq
    have hdepth : ∀ e ∈ T.paths, 0 + e.2.length ≤ 255 := fun e he => by
      have := CodeTree.length_path_lt he
      omega
    have hfuel : Config.nodeMax = (511 - T.size) + T.size := by simp only [Config.nodeMax]; omega
    refine ⟨T.record 0 0 c, ?_⟩
    rw [genCodes, if_neg h1, hfuel, walkCodes_tree h hdepth]
    simp [walkCodes]

theorem State.buildCodes_eq_ok {s : State} {root : NodeIdx} {t : TreeWork} {c : CodeTable}
    (ht : buildTree s.tieUsed s.freq s.node s.heap.slot = .ok (root, t))
    (hc : genCodes t.nodes root (leavesOf s.freq).length ⟨s.codeLen, s.codeVal⟩ = .ok c) :
    s.buildCodes = .ok { s with
      node := t.nodes, nnodes := BitVec.ofNat 10 t.nnodes, root := root, heap := t.heap, codeLen := c.len, codeVal := c.val
      maxLen := maxLenOf c.len.entries, expBits := expBitsOf s.freq.entries c.len.entries, seqPhase := .ready } := by
  unfold State.buildCodes
  simp only [ht, hc]

/-- BUILD's effect in every state where something is counted (42_tree.md R210). -/
theorem State.buildCodes_completes {s : State} (hf : s.FreqInv) (hn : s.nsym ≠ 0) :
    ∃ u, s.buildCodes = .ok u ∧ u.heap.size = 0 ∧ u.nnodes.toNat = 2 * s.nsym.toNat - 1 ∧
      u.root.toNat = 2 * s.nsym.toNat - 2 ∧ u.maxLen = maxLenOf u.codeLen.entries ∧
      u.expBits = expBitsOf s.freq.entries u.codeLen.entries := by
  obtain ⟨htotal, hcount⟩ := hf
  have hcount : s.nsym.toNat = (leavesOf s.freq).length := hcount.trans (length_leavesOf s.freq).symm
  have htotal : s.totalLen.toNat = totalWeight (leavesOf s.freq) := htotal.trans (sum_leavesFrom 0 _).symm
  have hne : leavesOf s.freq ≠ [] := fun e => hn (BitVec.eq_of_toNat_eq (by rw [hcount, e]; rfl))
  have hL := length_leavesOf_le s.freq
  obtain ⟨root, t, T, ht, hnn, hroot, hheap, hT, hlen⟩ :=
    buildTree_completes s.tieUsed hne (htotal ▸ s.totalLen.isLt) s.node s.heap.slot
  obtain ⟨c, hc⟩ := genCodes_completes hT (by omega) ⟨s.codeLen, s.codeVal⟩
  rw [hlen] at hc
  refine ⟨_, State.buildCodes_eq_ok ht hc, hheap, ?_, hroot.trans (by rw [hcount]), rfl, rfl⟩
  rw [BitVec.toNat_ofNat]
  omega

/-! ### EXP_BITS (43_codegen.md R243) -/

/-- Adding up words is adding up their numbers, as long as the sum fits. -/
theorem toNat_foldl_add {w : Nat} {L : List (BitVec w)} {a : BitVec w} (h : a.toNat + (L.map BitVec.toNat).sum < 2 ^ w) :
    (L.foldl (· + ·) a).toNat = a.toNat + (L.map BitVec.toNat).sum := by
  induction L generalizing a with
  | nil => rfl
  | cons x L ih =>
    rw [List.map_cons, List.sum_cons, ← Nat.add_assoc] at h ⊢
    have hx : (a + x).toNat = a.toNat + x.toNat := by rw [BitVec.toNat_add]; exact Nat.mod_eq_of_lt (by omega)
    rw [List.foldl_cons, ih (by rwa [hx]), hx]

/-- The entries of a table of 256, by the bytes in order. -/
theorem Table.entries_eq_map {α : Type} (t : Table α 256) (d : α) :
    t.entries = (List.range 256).map fun k => t.read d (BitVec.ofNat 8 k : Byte).toNat := by
  apply List.ext_getElem (by simp [t.size_eq])
  intro k h₁ h₂
  have hk : k < 256 := by simpa using h₂
  simp [Table.read, Nat.mod_eq_of_lt hk, h₁]

theorem toNat_mul_toNat_le (f : Word) (l : Byte) : f.toNat * l.toNat ≤ 2 ^ 40 :=
  (Nat.mul_le_mul f.isLt.le l.isLt.le).trans_eq (by norm_num)

/-- A frequency times a code length fits. -/
theorem toNat_freq_mul_len (f : Word) (l : Byte) : (f.setWidth 64 * l.setWidth 64).toNat = f.toNat * l.toNat := by
  rw [BitVec.toNat_mul, BitVec.toNat_setWidth_of_le (by decide), BitVec.toNat_setWidth_of_le (by decide)]
  exact Nat.mod_eq_of_lt ((toNat_mul_toNat_le f l).trans_lt (by decide))

/-- EXP_BITS does not wrap: it is the sum of the products as numbers. -/
theorem toNat_expBitsOf {freqs : List Word} (hlen : freqs.length ≤ 256) (lens : List Byte) :
    (expBitsOf freqs lens).toNat = (List.zipWith (fun f l => f.toNat * l.toNat) freqs lens).sum := by
  have hmap : (List.zipWith (fun f l => f.setWidth 64 * l.setWidth 64) freqs lens).map BitVec.toNat =
      List.zipWith (fun f l => f.toNat * l.toNat) freqs lens := by
    rw [List.map_zipWith]
    simp only [toNat_freq_mul_len]
  have hbound : (List.zipWith (fun f l => f.toNat * l.toNat) freqs lens).sum ≤ 256 * 2 ^ 40 := by
    refine (List.sum_le_card_nsmul _ (2 ^ 40) fun x hx => ?_).trans (Nat.mul_le_mul_right _ ?_)
    · rw [← List.map_uncurry_zip_eq_zipWith] at hx
      obtain ⟨⟨f, l⟩, -, rfl⟩ := List.mem_map.1 hx
      exact toNat_mul_toNat_le f l
    · rw [List.length_zipWith]
      exact (Nat.min_le_left _ _).trans hlen
  rw [← hmap] at hbound ⊢
  exact (toNat_foldl_add ((Nat.zero_add _).trans_lt (hbound.trans_lt (by decide)))).trans (Nat.zero_add _)

/-- The same sum, over the bytes in order. -/
theorem State.toNat_expBits {s t : State} (h : t.expBits = expBitsOf s.freq.entries t.codeLen.entries) :
    t.expBits.toNat = ((List.range 256).map fun k =>
      (s.freqAt (BitVec.ofNat 8 k)).toNat * (t.codeLenAt (BitVec.ofNat 8 k)).toNat).sum := by
  rw [h, toNat_expBitsOf s.freq.size_eq.le, s.freq.entries_eq_map 0, t.codeLen.entries_eq_map 0, List.zipWith_map, List.zipWith_self]
  rfl

/-- Settles O22: the work of BUILD completes whatever the tables held, and at pace `full` it is the whole of the command. -/
theorem buildCompletes : Obligations.BuildCompletes := by
  intro s hs hp hf hn
  have ⟨_, hidle, _⟩ := hs
  obtain ⟨u, hu, hheap, hnn, hroot, hmax, hexp⟩ := State.buildCodes_completes (s := s.building) hf hn
  have hframe := State.buildCodes_frame hu
  obtain ⟨hle, hmem⟩ := maxLenIsLargest_of_eq hmax
  refine ⟨_, exec_build_done hs hp hn hu, ?_, rfl, ?_, hheap, hnn, hroot, hle, hmem, ?_, ?_⟩
  · rw [hframe]
  · rw [hframe]; rfl
  · exact State.toNat_expBits (s := s.building) hexp
  · rw [hframe, ← hidle]; rfl

end Sys2Proof.Machine

namespace Sys2Proof.Machine

/-! ### The codes BUILD leaves (43_codegen.md R244 to R246) -/

/-- Settles O28: BUILD leaves the tables of READY, and the counters as they were. -/
theorem codeLengthsAreBounded : Obligations.CodeLengthsAreBounded := by
  intro s t hs h
  obtain ⟨u, hu, ⟨-, -, -, -, -, -, hbounds, -⟩, rfl⟩ := buildCodes_of_exec_build hs h
  obtain ⟨hnsym, -, hfreq⟩ := counters_of_buildCodes hu
  rwa [CodesWithinBounds, hnsym, hfreq] at hbounds

/-- Settles O29: BUILD leaves the tables of READY, and the frequencies as they were. -/
theorem codesArePrefixFree : Obligations.CodesArePrefixFree := by
  intro s t hs h
  obtain ⟨u, hu, ⟨-, -, -, -, -, -, -, hprefix, -⟩, rfl⟩ := buildCodes_of_exec_build hs h
  obtain ⟨-, -, hfreq⟩ := counters_of_buildCodes hu
  rwa [PrefixFree, hfreq] at hprefix

/-- Settles O30: BUILD leaves the tables of READY under either tie mode, and the frequencies as they were. -/
theorem higherFrequencyNoLongerCode : Obligations.HigherFrequencyNoLongerCode := by
  intro s t hs h
  obtain ⟨u, hu, ⟨-, -, -, -, -, -, -, -, hfrequent, -⟩, rfl⟩ := buildCodes_of_exec_build hs h
  obtain ⟨-, -, hfreq⟩ := counters_of_buildCodes hu
  rwa [FrequentNoLonger, hfreq] at hfrequent

end Sys2Proof.Machine

namespace Sys2Proof.Machine

/-! ### The tables in READY (43_codegen.md R247) -/

/-- Two states with the same frequency table and counters, tree, code table, MAX_LEN, EXP_BITS and TIE_USED. -/
abbrev SameTables (s t : State) : Prop :=
  t.freq = s.freq ∧ t.nsym = s.nsym ∧ t.totalLen = s.totalLen ∧ t.node = s.node ∧ t.nnodes = s.nnodes ∧ t.root = s.root ∧
  t.codeLen = s.codeLen ∧ t.codeVal = s.codeVal ∧ t.maxLen = s.maxLen ∧ t.expBits = s.expBits ∧ t.tieUsed = s.tieUsed

/-- A state of READY with a command in flight that READY admits, and the tables of `s`. -/
abbrev ReadyAs (s t : State) : Prop := t.flightFits = true ∧ t.seqPhase = .ready ∧ SameTables s t

@[simp] theorem State.popOut_flightFits (s : State) : s.popOut.flightFits = s.flightFits := by simp [State.flightFits]

/-- In READY no access but one that ends the session makes a BUILD or a COUNT go in flight, or writes a table. -/
theorem Prepared.readyAs {s u : State} (h : Prepared s u) (hfits : s.flightFits = true) (hr : s.seqPhase = .ready) : ReadyAs s u := by
  induction h with
  | start => exact ⟨hfits, hr, rfl, rfl, rfl, rfl, rfl, rfl, rfl, rfl, rfl, rfl, rfl⟩
  | host q p rd f d b _ ih => exact ih
  | pop _ ih => simpa [ReadyAs, SameTables] using ih
  | raise c w _ _ _ ih => exact ih
  | launch f _ _ _ _ hf ih => exact ⟨hf, ih.2⟩
  | build _ _ _ hf _ ih => simp [State.flightFits, ih.2.1] at hf

/-- In READY the core writes the packer's registers alone. -/
theorem readyAs_coreStep {s u v : State} (hu : ReadyAs s u) (h : coreStep u = .ok v) : ReadyAs s v := by
  obtain ⟨hfits, hr, hsame⟩ := hu
  obtain ⟨halone, hfits', -⟩ := coreStep_ready hfits hr h
  refine ⟨hfits', ?_⟩
  rw [halone]
  exact ⟨hr, hsame⟩

/-- Settles O56: neither what the access prepares nor what the core then does writes a table. -/
theorem tablesAreReadOnlyInReady : Obligations.TablesAreReadOnlyInReady := by
  intro s t hfits hr h
  rcases step_cases h with ⟨hend, -⟩ | ⟨u, hu, k, hk⟩
  · exact .inl hend
  · obtain ⟨-, -, hsame⟩ := coreSteps_induct (fun _ _ => readyAs_coreStep) (hu.readyAs hfits hr) hk
    exact .inr hsame

end Sys2Proof.Machine

namespace Sys2Proof.Machine

/-! ### One symbol alone (43_codegen.md R242) -/

/-- A table that was filled with one value and then written at one byte. -/
theorem Table.read_fill_write {α : Type} (d v : α) (b c : Byte) :
    ((Table.fill d : Table α 256).write b.toNat v).read d c.toNat = if c = b then v else d := by
  split_ifs with h
  · rw [h, Table.read_write_same _ _ _ b.isLt]
  · rw [Table.read_write_ne _ _ _ fun e => h (BitVec.eq_of_toNat_eq e.symm), Table.read_fill]

/-- A list of leaves for one counted symbol holds its leaf alone (42_tree.md R212). -/
theorem LeavesOf.eq_singleton {freq : Table Word 256} {L : List Node} (h : LeavesOf freq L) {b : Byte} (hb : freq.read 0 b.toNat ≠ 0)
    (hc : ∀ c : Byte, c ≠ b → freq.read 0 c.toNat = 0) : L = [⟨.leaf, b, freq.read 0 b.toNat, 0, 0⟩] := by
  have hsym : ∀ x ∈ L, x.sym = b := fun x hx => by
    obtain ⟨-, -, -, hw, hne⟩ := h.leaf x hx
    exact by_contra fun hsym => hne (hw.trans (hc _ hsym))
  obtain ⟨x, hx, -⟩ := h.complete b hb
  match L with
  | [] => cases hx
  | [⟨kind, sym, w, left, right⟩] =>
    obtain rfl : sym = b := hsym _ List.mem_cons_self
    obtain ⟨rfl, rfl, rfl, hw, -⟩ := h.leaf _ List.mem_cons_self
    obtain rfl : w = freq.read 0 sym.toNat := hw
    rfl
  | y :: z :: L =>
    have hlt : y.sym < z.sym := List.rel_of_pairwise_cons h.ascending List.mem_cons_self
    rw [hsym y (by simp), hsym z (by simp)] at hlt
    exact absurd hlt (BitVec.lt_irrefl _)

/-- BUILD over the empty tables, one symbol counted: one leaf as the tree, and the placeholder code (43_codegen.md R242). -/
theorem State.buildCodes_lone {s : State} {b : Byte} {f : Word} (hnode : s.node = .fill Node.zero) (hlen : s.codeLen = .fill 0)
    (hval : s.codeVal = .fill 0) (hf : f ≠ 0) (hfreq : s.freq = (Table.fill 0).write b.toNat f) :
    ∃ u, s.buildCodes = .ok u ∧ u.seqPhase = .ready ∧ u.nnodes = 1 ∧ u.root = 0 ∧ u.nodeNo 0 = ⟨.leaf, b, f, 0, 0⟩ ∧
      u.codeLen = (Table.fill 0).write b.toNat 1 ∧ u.codeVal = (Table.fill 0).write b.toNat 0 ∧
      u.maxLen = maxLenOf u.codeLen.entries ∧ u.expBits = expBitsOf s.freq.entries u.codeLen.entries := by
  have hL : leavesOf s.freq = [⟨.leaf, b, f, 0, 0⟩] := by
    have hread (c : Byte) : s.freq.read 0 c.toNat = if c = b then f else 0 := by rw [hfreq, Table.read_fill_write]
    have hb : s.freq.read 0 b.toNat = f := by rw [hread, if_pos rfl]
    rw [(leavesOf_spec s.freq).eq_singleton (hb.symm ▸ hf) fun c hc => by rw [hread, if_neg hc], hb]
  obtain ⟨root, t, ht, hb⟩ := buildTree_spec s.tieUsed (freq := s.freq) (by rw [hL]; simp)
    (by rw [hL]; exact (Nat.add_zero _).trans_lt f.isLt) s.heap.slot
  have hcount := hb.count
  have hroot := hb.root_eq
  have hleaf := hb.arena.leaf 0 (by rw [hL]; exact Nat.one_pos)
  rw [hL] at hcount hroot hleaf
  have hgen : genCodes t.nodes root (leavesOf s.freq).length ⟨s.codeLen, s.codeVal⟩ =
      .ok (CodeTable.record ⟨.fill 0, .fill 0⟩ b 1 0) := by
    rw [hL, hlen, hval, genCodes, if_pos List.length_singleton]
    exact congrArg (fun x : Node => Except.ok (CodeTable.record _ x.sym 1 0)) hleaf
  refine ⟨_, State.buildCodes_eq_ok (by rw [hnode, ht]) hgen, rfl, ?_, BitVec.eq_of_toNat_eq hroot, hleaf, rfl, rfl, rfl, rfl⟩
  rw [hcount]
  rfl

theorem maxLen_lone {t : State} {b : Byte} (hlen : ∀ c, t.codeLenAt c = if c = b then 1 else 0)
    (h : t.maxLen = maxLenOf t.codeLen.entries) : t.maxLen = 1 := by
  obtain ⟨hle, c, hc⟩ := maxLenIsLargest_of_eq h
  have hb := hle b
  rw [hlen] at hc hb
  rw [if_pos rfl] at hb
  split_ifs at hc
  · exact hc.symm
  · rw [← hc] at hb
    exact absurd hb (by decide)

theorem expBits_lone {s t : State} {b : Byte} (hfreq : ∀ c, c ≠ b → s.freqAt c = 0) (hlen : t.codeLenAt b = 1)
    (h : t.expBits = expBitsOf s.freq.entries t.codeLen.entries) : t.expBits = (s.freqAt b).setWidth 64 := by
  apply BitVec.eq_of_toNat_eq
  rw [State.toNat_expBits h, List.sum_map_eq_nsmul_single b.toNat]
  · rw [List.count_eq_one_of_mem List.nodup_range (List.mem_range.2 b.isLt), BitVec.ofNat_toNat, BitVec.setWidth_eq, hlen,
      BitVec.toNat_setWidth_of_le (by decide)]
    simp
  · intro k hk hmem
    have hne : BitVec.ofNat 8 k ≠ b := fun e => hk (by rw [← e, BitVec.toNat_ofNat, Nat.mod_eq_of_lt (List.mem_range.1 hmem)])
    rw [hfreq _ hne]
    exact Nat.zero_mul _

/-- Settles O23: the one leaf is the root, so BUILD records the placeholder code. -/
theorem oneSymbolGetsTheCodeZero : Obligations.OneSymbolGetsTheCodeZero := by
  intro s b f hs hp hcol hf hfreq hn
  have ⟨_, _, hc⟩ := hs
  obtain ⟨hnode, -, -, hlen₀, hval₀, -⟩ := hcol hc
  obtain ⟨u, hu, hready, hnn, hroot, hleaf, hlen, hval, hmax, hexp⟩ :=
    State.buildCodes_lone (s := s.building) hnode hlen₀ hval₀ hf hfreq
  have hcount (c : Byte) : s.freqAt c = if c = b then f else 0 := by rw [State.freqAt, hfreq, Table.read_fill_write]
  have hl (c : Byte) : u.codeLenAt c = if c = b then 1 else 0 := by rw [State.codeLenAt, hlen, Table.read_fill_write]
  have hv (c : Byte) : u.codeValAt c = 0 := by rw [State.codeValAt, hval, Table.read_fill_write, ite_self]
  have hbits : u.expBits = f.setWidth 64 := by
    rw [expBits_lone (s := s) (fun c hc => (hcount c).trans (if_neg hc)) ((hl b).trans (if_pos rfl)) hexp, hcount, if_pos rfl]
  exact ⟨_, exec_build_done hs hp (by rw [hn]; decide) hu, hready, (hl b).trans (if_pos rfl), hv b,
    fun c hc => ⟨(hl c).trans (if_neg hc), hv c⟩, maxLen_lone hl hmax, hbits, hnn, hroot, hleaf⟩

end Sys2Proof.Machine

namespace Sys2Proof.Machine

/-! ### What the packer and the host's pops do to the output (44_bitpacker.md R260 to R263, 20_memory.md R88) -/

/-- From `s` to `t` the packer has appended `bits` to its output, the earliest first, the host has popped `popped`, and DATA_BITS and
ENC_COUNT have grown by `data` and `encs`; nothing else has changed but ACC, BITCNT, OUTQ and OUT_BYTES. -/
structure Packs (s t : State) (popped : List Byte) (bits : List Bool) (data encs : Nat) : Prop where
  stream : bytesBits popped ++ t.bitstream = s.bitstream ++ bits
  bitcnt : t.bitcnt.toNat = (s.bitcnt.toNat + bits.length) % 8
  outq : popped.length + t.outq.length = s.outq.length + (s.bitcnt.toNat + bits.length) / 8
  outBytes : t.outBytes = s.outBytes + BitVec.ofNat 64 ((s.bitcnt.toNat + bits.length) / 8)
  dataBits : t.dataBits = s.dataBits + BitVec.ofNat 64 data
  encCount : t.encCount = s.encCount + BitVec.ofNat 64 encs
  hostOut : t.hostOut = s.hostOut ++ popped
  sessionOut : t.sessionOut = s.sessionOut ++ popped
  frame : t = { s with
    acc := t.acc, bitcnt := t.bitcnt, outq := t.outq, outBytes := t.outBytes, dataBits := t.dataBits, encCount := t.encCount
    hostOut := t.hostOut, sessionOut := t.sessionOut }

theorem Packs.refl (s : State) : Packs s s [] [] 0 0 where
  stream := (List.append_nil _).symm
  bitcnt := (Nat.mod_eq_of_lt s.bitcnt.isLt).symm
  outq := by have := s.bitcnt.isLt; simp; omega
  outBytes := by have := s.bitcnt.isLt; simp [Nat.div_eq_of_lt this]
  dataBits := by simp
  encCount := by simp
  hostOut := by simp
  sessionOut := by simp
  frame := rfl

theorem Packs.trans {s t u : State} {p p' : List Byte} {b b' : List Bool} {n n' e e' : Nat} (h : Packs s t p b n e)
    (h' : Packs t u p' b' n' e') : Packs s u (p ++ p') (b ++ b') (n + n') (e + e') where
  stream := by rw [bytesBits_append, List.append_assoc, h'.stream, ← List.append_assoc, h.stream, List.append_assoc]
  bitcnt := by rw [h'.bitcnt, h.bitcnt, List.length_append]; omega
  outq := by have := h.outq; have := h'.outq; have := h.bitcnt; simp only [List.length_append]; omega
  outBytes := by
    have hsum : (s.bitcnt.toNat + b.length) / 8 + (t.bitcnt.toNat + b'.length) / 8 = (s.bitcnt.toNat + (b ++ b').length) / 8 := by
      rw [h.bitcnt, List.length_append]; omega
    rw [h'.outBytes, h.outBytes, BitVec.add_assoc, ← BitVec.ofNat_add, hsum]
  dataBits := by rw [h'.dataBits, h.dataBits, BitVec.add_assoc, ← BitVec.ofNat_add]
  encCount := by rw [h'.encCount, h.encCount, BitVec.add_assoc, ← BitVec.ofNat_add]
  hostOut := by rw [h'.hostOut, h.hostOut, List.append_assoc]
  sessionOut := by rw [h'.sessionOut, h.sessionOut, List.append_assoc]
  frame := h'.frame.trans (by rw [h.frame])

section
variable {s t : State} {p : List Byte} {bits : List Bool} {n e : Nat} (h : Packs s t p bits n e)
include h

theorem Packs.flight : t.flight = s.flight := by rw [h.frame]

theorem Packs.params : t.params = s.params := by rw [h.frame]

theorem Packs.codes : t.codeBits = s.codeBits ∧ t.codeLenAt = s.codeLenAt := by rw [h.frame]; exact ⟨rfl, rfl⟩

theorem Packs.ready (hs : s.Accepting .ready) (hp : s.pace = .full) : t.Accepting .ready ∧ t.pace = .full := by
  rw [h.frame]; exact ⟨hs, hp⟩

end

theorem packs_writeBit (b : Bool) (s : State) : Packs s (s.writeBit b) [] [b] 0 0 := by
  have hstream := bitstream_writeBit b s
  by_cases h7 : s.bitcnt = 7
  · have hw : s.writeBit b = { s.emit (shiftIn s.acc b) with acc := 0, bitcnt := 0 } := if_pos h7
    rw [hw] at hstream ⊢
    exact { Packs.refl s with
      stream := hstream, bitcnt := by simp [h7], outq := by simp [h7], outBytes := by simp [h7], frame := rfl }
  · have hw : s.writeBit b = { s with acc := shiftIn s.acc b, bitcnt := s.bitcnt + 1 } := if_neg h7
    have hne : s.bitcnt.toNat ≠ 7 := fun e => h7 (BitVec.eq_of_toNat_eq e)
    have hlt := s.bitcnt.isLt
    have hcnt : (s.bitcnt + 1).toNat = s.bitcnt.toNat + 1 := toNat_add_one (by omega)
    have hdiv : (s.bitcnt.toNat + 1) / 8 = 0 := by omega
    rw [hw] at hstream ⊢
    exact { Packs.refl s with
      stream := hstream, bitcnt := by simp only [hcnt, List.length_singleton]; omega
      outq := by simp [hdiv], outBytes := by simp [hdiv], frame := rfl }

/-- `write_bit` for every bit of a list (44_bitpacker.md R261). -/
theorem packs_writeBits (bits : List Bool) (s : State) : Packs s (s.writeBits bits) [] bits 0 0 := by
  induction bits generalizing s with
  | nil => exact .refl s
  | cons b bits ih => exact (packs_writeBit b s).trans (ih (s.writeBit b))

theorem packs_finishWrite (n : Nat) (enc : Bool) (s : State) : Packs s (s.finishWrite n enc) [] [] n enc.toNat :=
  { Packs.refl s with
    dataBits := rfl
    encCount := by cases enc <;> simp
    frame := rfl }

/-- `write(v, n)` whole, the bits and then their number. -/
theorem packs_write (bits : List Bool) (n : Nat) (enc : Bool) (s : State) :
    Packs s ((s.writeBits bits).finishWrite n enc) [] bits n enc.toNat := by
  simpa using (packs_writeBits bits s).trans (packs_finishWrite n enc _)

/-- A host that drains takes the bytes of OUTQ, the head first. -/
theorem packs_drained (s : State) : Packs s s.drained s.outq [] 0 0 :=
  { Packs.refl s with
    stream := by simp [State.bitstream, State.drained, State.held, bytesBits]
    outq := by have := s.bitcnt.isLt; simp [State.drained]; omega
    hostOut := rfl
    sessionOut := rfl
    frame := rfl }

/-- Settles O34: the loop packs its bits one by one, and the count after it counts them. -/
theorem writeAppendsItsBits : Obligations.WriteAppendsItsBits := by
  refine ⟨fun s t bits enc ht => ?_, bitsOf_eq_map⟩
  have h : Packs s t [] bits bits.length enc.toNat := ht ▸ packs_write bits bits.length enc s
  refine ⟨h.stream, h.bitcnt, (Nat.zero_add _).symm.trans h.outq, h.frame.trans ?_⟩
  have henc : s.encCount + BitVec.ofNat 64 enc.toNat = if enc = true then s.encCount + 1 else s.encCount := by cases enc <;> simp
  rw [h.outBytes, h.dataBits, h.encCount, h.hostOut, h.sessionOut, henc, List.append_nil, List.append_nil]

end Sys2Proof.Machine

namespace Sys2Proof.Machine

/-! ### Output bytes across a step (44_bitpacker.md R269) -/

/-- A step of the core leaves the bytes of OUTQ in front. -/
theorem coreStep_outq {s t : State} (h : coreStep s = .ok t) : ∃ bs, t.outq = s.outq ++ bs := by
  have emitted {u : State} (hu : Emits s u) : ∃ bs, u.outq = s.outq ++ bs := by
    rcases hu with ⟨e, -⟩ | ⟨-, b, e, -⟩
    · exact ⟨[], e.trans (List.append_nil _).symm⟩
    · exact ⟨[b], e⟩
  have kept {q : List Byte} (e : q = s.outq) : ∃ bs, q = s.outq ++ bs := ⟨[], e.trans (List.append_nil _).symm⟩
  rcases coreStep_cases h with ⟨-, rfl⟩ | ⟨b, -, rfl⟩ | ⟨u, -, hu, rfl⟩ | ⟨n, e, -, rfl⟩ | ⟨b, bs, n, e, -, -, -, rfl⟩ |
    ⟨b, bs, n, e, -, hroom, rfl⟩ | ⟨-, -, -, rfl⟩ | ⟨-, hroom, rfl⟩
  · exact kept rfl
  · exact kept rfl
  · exact kept (by rw [State.buildCodes_frame hu])
  · exact kept rfl
  · exact kept rfl
  · exact emitted (emits_writeBit hroom b)
  · exact kept rfl
  · exact emitted (emits_flushHeld hroom)

/-- The parameters are those of `s`, and the popped bytes followed by OUTQ are those of `s` with bytes added at the end. -/
def Extends (s t : State) : Prop :=
  t.params = s.params ∧
  ∃ bs, t.hostOut ++ t.outq = s.hostOut ++ s.outq ++ bs ∧ t.sessionOut ++ t.outq = s.sessionOut ++ s.outq ++ bs

theorem Prepared.extends {s u : State} (h : Prepared s u) : Extends s u := by
  induction h with
  | start => exact ⟨rfl, [], (List.append_nil _).symm, (List.append_nil _).symm⟩
  | pop _ ih => simpa only [Extends, State.popOut_params, State.popOut_output, State.popOut_session] using ih
  | host | raise | launch | build => assumption

theorem Extends.coreStep {s u v : State} (hu : Extends s u) (h : coreStep u = .ok v) : Extends s v := by
  obtain ⟨hparams, bs, hout, hsession⟩ := hu
  obtain ⟨hparams', -, -, -, -, -, -, -, hhost, hsess, -⟩ := coreStep_frame h
  obtain ⟨cs, hq⟩ := coreStep_outq h
  refine ⟨hparams'.trans hparams, bs ++ cs, ?_, ?_⟩
  · rw [hhost, hq, ← List.append_assoc, hout, List.append_assoc]
  · rw [hsess, hq, ← List.append_assoc, hsession, List.append_assoc]

/-- Settles O57: pops move a byte from OUTQ to the popped ones, the core adds bytes to OUTQ at the end, and CLEAR and reset empty it. -/
theorem outputBytesAreNeverLost : Obligations.OutputBytesAreNeverLost := by
  intro s t h
  rcases step_cases h with ⟨hend, u, ⟨q, p, rfl⟩, rfl | rfl⟩ | ⟨u, hu, k, hk⟩
  · exact ⟨rfl, .inr ⟨hend, rfl, rfl, rfl⟩⟩
  · exact ⟨rfl, .inr ⟨hend, rfl, rfl, rfl⟩⟩
  · obtain ⟨hparams, hout⟩ := coreSteps_induct (fun _ _ => Extends.coreStep) hu.extends hk
    exact ⟨hparams, .inl hout⟩

end Sys2Proof.Machine

namespace Sys2Proof.Machine

/-! ### A write or a FLUSH at pace `full` (44_bitpacker.md R263 to R265, R269, notes/assumptions/5.md, 6.md) -/

theorem fifoFull_eq_false {s : State} : s.fifoFull = false ↔ s.outq.length < s.params.outFifoDepth :=
  decide_eq_false_iff_not.trans not_le

/-- The state with another command in flight. -/
def State.withFlight (f : Flight) (s : State) : State := { s with flight := f }

theorem State.withFlight_of_flight {s : State} {f : Flight} (h : s.flight = f) : s.withFlight f = s := by
  subst h; rfl

/-- The packer does not look at the command in flight. -/
theorem writeBit_withFlight (b : Bool) (f : Flight) (s : State) : (s.withFlight f).writeBit b = (s.writeBit b).withFlight f := by
  unfold State.writeBit State.withFlight; split <;> rfl

theorem flushHeld_withFlight (f : Flight) (s : State) : (s.withFlight f).flushHeld = s.flushHeld.withFlight f := by
  unfold State.flushHeld State.withFlight; split <;> rfl

theorem coreSteps_succ {s t : State} (h : coreStep s = .ok t) (k : Nat) : coreSteps (k + 1) s = coreSteps k t := by
  simp only [coreSteps, h]

/-- A step at which the core waits is followed by no other. -/
theorem coreSteps_of_wait {s : State} (h : coreStep s = .ok s) (k : Nat) : coreSteps k s = .ok s := by
  induction k with
  | zero => rfl
  | succ k ih => rw [coreSteps_succ h, ih]

theorem launch_full {s : State} (hp : s.pace = .full) (f : Flight) :
    launch f s = settle (coreSteps f.length (s.withFlight f)) := by
  simp only [launch, advance, hp, State.withFlight]

/-- With room for the bytes that `bits` complete, the core writes `bits` and goes on with the bits after them. -/
theorem coreSteps_write (bits rest : List Bool) (n : Nat) (e : Bool) {s : State} (hroom : s.RoomFor bits.length) :
    coreSteps bits.length (s.withFlight (.write (bits ++ rest) n e)) = .ok ((s.writeBits bits).withFlight (.write rest n e)) := by
  induction bits generalizing s with
  | nil => rfl
  | cons b bits ih =>
    have h := packs_writeBit b s
    have hq := h.outq
    have hc := h.bitcnt
    have hbit : s.bitcnt ≠ 7 ∨ s.fifoFull = false := by
      refine or_iff_not_imp_left.2 fun h7 => fifoFull_eq_false.2 ?_
      have h7 : s.bitcnt.toNat = 7 := congrArg BitVec.toNat (not_not.1 h7)
      simp only [State.RoomFor, List.length_cons] at hroom
      omega
    have hroom' : (s.writeBit b).RoomFor bits.length := by
      simp only [State.RoomFor, List.length_cons, List.length_nil, State.writeBit_params] at *
      omega
    have hstep : coreStep (s.withFlight (.write (b :: (bits ++ rest)) n e)) =
        .ok ((s.writeBit b).withFlight (.write (bits ++ rest) n e)) :=
      (coreStep_write_bit (s := s.withFlight _) rfl hbit).trans (by rw [writeBit_withFlight]; rfl)
    exact (coreSteps_succ hstep _).trans (ih hroom')

/-- What ENCODE and PACK_RAW come to with room for all their bytes. -/
theorem launch_write {s : State} {bits : List Bool} {n : Nat} {e : Bool} (hf : s.flight = .idle) (hp : s.pace = .full)
    (hroom : s.RoomFor bits.length) : launch (.write bits n e) s = .next ((s.writeBits bits).finishWrite n e) := by
  have hbits := coreSteps_write bits [] n e hroom
  rw [List.append_nil] at hbits
  have hidle : ((s.writeBits bits).finishWrite n e).flight = .idle := (packs_write bits n e s).flight.trans hf
  rw [launch_full hp, Flight.length, coreSteps_add _ 1 hbits, coreSteps_succ (coreStep_write_nil rfl) 0,
    ← State.withFlight_of_flight hidle]
  rfl

/-- The answer of a write of `bits` that has filled the FIFO: part of them are in the bitstream, the others still in flight. -/
def StallsIn (s : State) (bits : List Bool) (n : Nat) (e : Bool) (a : Answer) : Prop :=
  ∃ t, a = .next t ∧ t.busy = true ∧ t.outq.length = s.params.outFifoDepth ∧
    (∃ k, k < bits.length ∧ t.bitstream = s.bitstream ++ bits.take k ∧ t.flight = .write (bits.drop k) n e) ∧
    t.dataBits = s.dataBits ∧ t.encCount = s.encCount ∧ coreStep t = .ok t

/-- What ENCODE and PACK_RAW come to without room for all their bytes: `k` bits fill OUTQ and leave seven in ACC. -/
theorem launch_write_stalls {s : State} {bits : List Bool} {n : Nat} {e : Bool} (hp : s.pace = .full)
    (hq : s.outq.length ≤ s.params.outFifoDepth) (hno : ¬ s.RoomFor bits.length) :
    StallsIn s bits n e (launch (.write bits n e) s) := by
  have hlt := s.bitcnt.isLt
  obtain ⟨k, hk⟩ : ∃ k, s.bitcnt.toNat + k = 8 * (s.params.outFifoDepth - s.outq.length) + 7 :=
    ⟨_, Nat.add_sub_cancel' (by omega)⟩
  have hkb : k < bits.length := by simp only [State.RoomFor] at hno; omega
  have hlen : (bits.take k).length = k := List.length_take_of_le hkb.le
  have hbits := coreSteps_write (bits.take k) (bits.drop k) n e (s := s) (by simp only [State.RoomFor, hlen]; omega)
  rw [List.take_append_drop, hlen] at hbits
  have h := packs_writeBits (bits.take k) s
  have houtq := h.outq
  have hbitcnt := h.bitcnt
  rw [hlen, List.length_nil, Nat.zero_add] at houtq
  rw [hlen, hk] at hbitcnt
  have hfull : (s.writeBits (bits.take k)).outq.length = s.params.outFifoDepth := by omega
  have h7 : (s.writeBits (bits.take k)).bitcnt = 7 := BitVec.eq_of_toNat_eq (hbitcnt.trans (Nat.mul_add_mod ..))
  have hwait : coreStep ((s.writeBits (bits.take k)).withFlight (.write (bits.drop k) n e)) =
      .ok ((s.writeBits (bits.take k)).withFlight (.write (bits.drop k) n e)) := by
    rw [List.drop_eq_getElem_cons hkb]
    exact coreStep_write_wait rfl h7 (decide_eq_true (h.params ▸ hfull.ge))
  refine ⟨(s.writeBits (bits.take k)).withFlight (.write (bits.drop k) n e), ?_, rfl, hfull, ⟨k, hkb, h.stream, rfl⟩,
    h.dataBits.trans (BitVec.add_zero _), h.encCount.trans (BitVec.add_zero _), hwait⟩
  have hsplit : (Flight.write bits n e).length = k + (bits.length + 1 - k) := (Nat.add_sub_cancel' (Nat.le_succ_of_le hkb.le)).symm
  rw [launch_full hp, hsplit, coreSteps_add _ _ hbits, coreSteps_of_wait hwait, settle_ok]

theorem exec_encode_coded {s : State} {b : Byte} (hs : s.Accepting .ready) (hb : s.codeLenAt b ≠ 0) :
    exec (.encode b) s = launch (.write (s.codeBits b) (s.codeLenAt b).toNat true) s := by
  obtain ⟨he, hf, hr⟩ := hs
  rw [exec_legal (i := .encode b) he hf rfl (decide_eq_true hr), familyRule, if_neg hb]

theorem exec_packRaw {s : State} {n : BitVec 5} {r : BitVec 16} (hs : s.Accepting .ready) (h1 : 1 ≤ n.toNat) (h16 : n.toNat ≤ 16) :
    exec (.packRaw n r) s = launch (.write (rawBits n r) n.toNat false) s := by
  obtain ⟨he, hf, hr⟩ := hs
  exact exec_legal (i := .packRaw n r) he hf (nbitsLegal_iff.2 ⟨h1, h16⟩) (decide_eq_true hr)

theorem exec_flush {s : State} (hs : s.Accepting .ready) : exec .flush s = launch .flush s := by
  obtain ⟨he, hf, hr⟩ := hs
  exact exec_legal (i := .flush) he hf rfl (decide_eq_true hr)

/-- FLUSH with nothing to emit, or room to emit it. -/
theorem exec_flush_done {s : State} (hs : s.Accepting .ready) (hp : s.pace = .full) (hroom : s.bitcnt = 0 ∨ s.fifoFull = false) :
    exec .flush s = .next s.flushHeld := by
  have ⟨_, hf, _⟩ := hs
  have hidle : s.flushHeld.withFlight .idle = s.flushHeld := State.withFlight_of_flight (s.flushHeld_flight.trans hf)
  rw [exec_flush hs, launch_of_length_one hp rfl (coreStep_flush (s := s.withFlight .flush) rfl hroom), flushHeld_withFlight]
  exact congrArg _ hidle

@[simp] theorem length_codeBits (s : State) (b : Byte) : (s.codeBits b).length = (s.codeLenAt b).toNat := length_bitsOf _ _

@[simp] theorem length_rawBits (n : BitVec 5) (r : BitVec 16) : (rawBits n r).length = n.toNat := length_bitsOf _ _

/-- ENCODE of a coded symbol, with room for its bytes, packs its code. -/
theorem exec_encode_packs {s : State} {b : Byte} (hs : s.Accepting .ready) (hp : s.pace = .full) (hb : s.codeLenAt b ≠ 0)
    (hroom : s.RoomFor (s.codeBits b).length) :
    ∃ t, exec (.encode b) s = .next t ∧ Packs s t [] (s.codeBits b) (s.codeBits b).length 1 := by
  refine ⟨_, (exec_encode_coded hs hb).trans (launch_write hs.2.1 hp hroom), ?_⟩
  rw [length_codeBits]
  exact packs_write _ _ true s

/-- Settles O35: ENCODE packs the code, and of a symbol without one its own check answers. -/
theorem encodeWritesTheCode : Obligations.EncodeWritesTheCode := by
  intro s b hs
  have ⟨he, hf, hr⟩ := hs
  refine ⟨fun hb hp hroom => ?_, fun hb => ?_⟩
  · obtain ⟨t, ht, h⟩ := exec_encode_packs hs hp hb (by rwa [length_codeBits])
    have hbitcnt := h.bitcnt
    have hbytes := h.outBytes
    have hdata := h.dataBits
    rw [length_codeBits] at hbitcnt hbytes hdata
    rw [BitVec.ofNat_toNat] at hdata
    refine ⟨t, ht, State.busy_eq_false.2 (h.flight.trans hf), h.stream, hbitcnt, hdata, h.encCount, hbytes, h.frame.trans ?_⟩
    rw [h.hostOut, h.sessionOut, List.append_nil, List.append_nil]
  · rw [exec_legal (i := .encode b) he hf rfl (decide_eq_true hr), familyRule, if_pos hb]

/-- Settles O36: FLUSH is its one step, which pads and emits the held bits. -/
theorem flushPadsAndEmits : Obligations.FlushPadsAndEmits := by
  intro s hs hp
  refine ⟨fun h0 => ?_, fun h0 hroom => ?_⟩
  · rw [exec_flush_done hs hp (.inl h0), State.flushHeld, if_pos h0]
  · have hpos : s.bitcnt.toNat ≠ 0 := fun e => h0 (BitVec.eq_of_toNat_eq e)
    have hpad := lastPad_flushHeld s
    have hstream := bitstream_flushHeld s
    refine ⟨_, exec_flush_done hs hp (.inr (fifoFull_eq_false.2 hroom)), State.busy_eq_false.2 (s.flushHeld_flight.trans hs.2.1), ?_⟩
    rw [State.flushHeld, if_neg h0] at hpad hstream ⊢
    exact ⟨rfl, rfl, hpad.trans (Nat.mod_eq_of_lt (by omega)), rfl, List.length_append, hstream, rfl⟩

/-- Settles O37: PACK_RAW packs the bits of RAW below NBITS. -/
theorem packRawWritesItsBits : Obligations.PackRawWritesItsBits := by
  intro s n r hs hp h1 h16 hroom
  have h := packs_write (rawBits n r) n.toNat false s
  have hbitcnt := h.bitcnt
  have hbytes := h.outBytes
  rw [length_rawBits] at hbitcnt hbytes
  refine ⟨_, (exec_packRaw hs h1 h16).trans (launch_write hs.2.1 hp (by rwa [length_rawBits])),
    State.busy_eq_false.2 (h.flight.trans hs.2.1), ?_, hbitcnt, ?_, hbytes, h.frame.trans ?_⟩
  · rw [← bitsOf_eq_map]
    exact h.stream
  · rw [h.dataBits, BitVec.ofNat_toNat]
  · rw [h.encCount, h.hostOut, h.sessionOut, List.append_nil, List.append_nil, Bool.toNat_false, BitVec.add_zero]

/-- Settles O39: a write stops at the bit that would complete a byte with OUTQ full, and a FLUSH with held bits at once. -/
theorem fullFifoStallsThePacker : Obligations.FullFifoStallsThePacker := by
  intro s hs hp hq
  refine ⟨fun b hb hno => ?_, fun n r h1 h16 hno => ?_, fun h0 hfull => ?_⟩
  · rw [exec_encode_coded hs hb]
    exact launch_write_stalls hp hq (by rwa [length_codeBits])
  · rw [exec_packRaw hs h1 h16]
    exact launch_write_stalls hp hq (by rwa [length_rawBits])
  · have hwait : coreStep { s with flight := .flush } = .ok { s with flight := .flush } :=
      coreStep_flush_wait rfl h0 (decide_eq_true hfull.ge)
    exact ⟨_, (exec_flush hs).trans (launch_of_length_one hp rfl hwait), rfl, hwait⟩

end Sys2Proof.Machine

namespace Sys2Proof.Machine

/-! ### Any number of ENCODEs (44_bitpacker.md R266 to R268) -/

theorem runDrained_cons {i : Instr} {is : List Instr} {s t : State} (h : exec i s = .next t) :
    runDrained (i :: is) s = runDrained is t.drained := by
  rw [runDrained, h]

/-- ENCODEs with room in the FIFO for all their bytes pack the codes one after the other; then the commands after them run. -/
theorem runCommands_encodes {s : State} {bs : List Byte} (hs : s.Accepting .ready) (hp : s.pace = .full)
    (hcoded : ∀ b ∈ bs, s.codeLenAt b ≠ 0) (hroom : s.RoomFor (bs.flatMap s.codeBits).length) :
    ∃ t, (∀ is, runCommands (bs.map Instr.encode ++ is) s = runCommands is t) ∧
      Packs s t [] (bs.flatMap s.codeBits) (bs.flatMap s.codeBits).length bs.length := by
  induction bs generalizing s with
  | nil => exact ⟨s, fun _ => rfl, .refl s⟩
  | cons b bs ih =>
    rw [List.forall_mem_cons] at hcoded
    rw [List.flatMap_cons, List.length_append] at hroom ⊢
    obtain ⟨u, hu, h⟩ := exec_encode_packs hs hp hcoded.1 (by simp only [State.RoomFor] at *; omega)
    obtain ⟨hcodes, hlens⟩ := h.codes
    obtain ⟨hs', hp'⟩ := h.ready hs hp
    have hroom' : u.RoomFor (bs.flatMap u.codeBits).length := by
      have hq := h.outq
      have hc := h.bitcnt
      simp only [State.RoomFor, h.params, hcodes, List.length_nil] at *
      omega
    obtain ⟨t, ht, h'⟩ := ih hs' hp' (hlens ▸ hcoded.2) hroom'
    rw [hcodes] at h'
    exact ⟨t, fun is => (runCommands_cons hu).trans (ht is), by rw [List.length_cons, Nat.add_comm bs.length]; exact h.trans h'⟩

/-- A drained FIFO of depth 32 or more has room for any one code. -/
theorem roomFor_of_drained {s : State} (hd : 32 ≤ s.params.outFifoDepth) (hq : s.outq = []) (b : Byte) :
    s.RoomFor (s.codeBits b).length := by
  have h1 := s.bitcnt.isLt
  have h2 := (s.codeLenAt b).isLt
  rw [State.RoomFor, hq, length_codeBits, List.length_nil]
  omega

/-- ENCODEs with a drain after each pack the codes one after the other, at a depth of 32 or more; then the commands after them
run. -/
theorem runDrained_encodes {s : State} {bs : List Byte} (hs : s.Accepting .ready) (hp : s.pace = .full)
    (hcoded : ∀ b ∈ bs, s.codeLenAt b ≠ 0) (hd : 32 ≤ s.params.outFifoDepth) (hq : s.outq = []) :
    ∃ t popped, (∀ is, runDrained (bs.map Instr.encode ++ is) s = runDrained is t) ∧ t.outq = [] ∧
      Packs s t popped (bs.flatMap s.codeBits) (bs.flatMap s.codeBits).length bs.length := by
  induction bs generalizing s with
  | nil => exact ⟨s, [], fun _ => rfl, hq, .refl s⟩
  | cons b bs ih =>
    rw [List.forall_mem_cons] at hcoded
    obtain ⟨u, hu, h⟩ := exec_encode_packs hs hp hcoded.1 (roomFor_of_drained hd hq b)
    have h := h.trans (packs_drained u)
    obtain ⟨hcodes, hlens⟩ := h.codes
    obtain ⟨hs', hp'⟩ := h.ready hs hp
    obtain ⟨t, popped, ht, hq', h'⟩ := ih hs' hp' (hlens ▸ hcoded.2) (h.params ▸ hd) rfl
    rw [hcodes] at h'
    refine ⟨t, u.outq ++ popped, fun is => (runDrained_cons hu).trans (ht is), hq', ?_⟩
    simpa [Nat.add_comm] using h.trans h'

/-- What is left of a stream of ENCODEs from an empty packer when the held bits are flushed: whole bytes, which are the bits and their
padding, and the counters of both. -/
theorem Packs.flushed {s t : State} {popped : List Byte} {bits : List Bool} {e : Nat} (h : Packs s t popped bits bits.length e)
    (hc : s.bitcnt = 0) (hq : s.outq = []) (hdata : s.dataBits = 0) (hbytes : s.outBytes = 0) (hlen : bits.length < 2 ^ 64) :
    bytesBits (popped ++ t.flushHeld.outq) = bits ++ List.replicate t.flushHeld.lastPad.toNat false ∧
    t.flushHeld.lastPad.toNat = (8 - bits.length % 8) % 8 ∧
    t.flushHeld.dataBits.toNat = bits.length ∧
    t.flushHeld.outBytes.toNat = (t.flushHeld.dataBits.toNat + 7) / 8 ∧
    t.flushHeld.encCount = s.encCount + BitVec.ofNat 64 e := by
  have hc0 : s.bitcnt.toNat = 0 := congrArg BitVec.toNat hc
  have hempty : s.bitstream = [] := by rw [bitstream_of_bitcnt_zero hc, hq]; rfl
  have hbitcnt : t.bitcnt.toNat = bits.length % 8 := by rw [h.bitcnt, hc0, Nat.zero_add]
  have hd : t.dataBits.toNat = bits.length := by
    rw [h.dataBits, hdata, zero_add, BitVec.toNat_ofNat, Nat.mod_eq_of_lt hlen]
  have ho : t.outBytes.toNat = bits.length / 8 := by
    rw [h.outBytes, hbytes, hc0, Nat.zero_add, zero_add, BitVec.toNat_ofNat, Nat.mod_eq_of_lt (by omega)]
  refine ⟨?_, (lastPad_flushHeld t).trans (by rw [hbitcnt]), by simpa using hd, ?_, by simpa using h.encCount⟩
  · have hb := bitstream_flushHeld t
    rw [bitstream_of_bitcnt_zero t.flushHeld_bitcnt] at hb
    rw [bytesBits_append, hb, ← List.append_assoc, h.stream, hempty, List.nil_append]
  · rw [State.flushHeld_dataBits, hd, State.flushHeld]
    split
    · rename_i h0
      have h0 : t.bitcnt.toNat = 0 := congrArg BitVec.toNat h0
      exact ho.trans (by omega)
    · rename_i h0
      have h0 : t.bitcnt.toNat ≠ 0 := fun e => h0 (BitVec.eq_of_toNat_eq e)
      exact (toNat_add_one (x := t.outBytes) (by omega)).trans (by omega)

/-- Settles O42: the ENCODEs pack the codes, the FLUSH after them pads the held bits, and a drain moves bytes from OUTQ to the host. -/
theorem streamIsTheConcatenationOfTheCodes : Obligations.StreamIsTheConcatenationOfTheCodes := by
  intro s bs hs hp hc hq hdata hbytes hcoded
  have hc0 : s.bitcnt.toNat = 0 := congrArg BitVec.toNat hc
  refine ⟨fun hfits hdepth => ?_, fun hdepth hlen => ?_⟩
  · obtain ⟨t, ht, h⟩ := runCommands_encodes hs hp hcoded (by rw [State.RoomFor, hc0, hq, List.length_nil]; omega)
    obtain ⟨hs', hp'⟩ := h.ready hs hp
    have hroom : t.bitcnt = 0 ∨ t.fifoFull = false := by
      refine or_iff_not_imp_left.2 fun h0 => fifoFull_eq_false.2 ?_
      have h0 : t.bitcnt.toNat ≠ 0 := fun e => h0 (BitVec.eq_of_toNat_eq e)
      have hout := h.outq
      rw [h.bitcnt] at h0
      rw [hq, List.length_nil] at hout
      rw [h.params]
      omega
    obtain ⟨hstream, hrest⟩ := h.flushed hc hq hdata hbytes (by omega)
    exact ⟨t.flushHeld, (ht _).trans (runCommands_cons (exec_flush_done hs' hp' hroom)),
      State.busy_eq_false.2 (t.flushHeld_flight.trans hs'.2.1), t.flushHeld_bitcnt, hstream, hrest⟩
  · obtain ⟨t, popped, ht, hq', h⟩ := runDrained_encodes hs hp hcoded hdepth hq
    obtain ⟨hs', hp'⟩ := h.ready hs hp
    have hroom : t.fifoFull = false := fifoFull_eq_false.2 (by rw [hq', h.params]; exact Nat.lt_of_lt_of_le (by decide) hdepth)
    obtain ⟨hstream, hrest⟩ := h.flushed hc hq hdata hbytes hlen
    refine ⟨t.flushHeld.drained, popped ++ t.flushHeld.outq,
      (ht _).trans (runDrained_cons (exec_flush_done hs' hp' (.inr hroom))),
      State.busy_eq_false.2 (t.flushHeld_flight.trans hs'.2.1), t.flushHeld_bitcnt, rfl, ?_, ?_, hstream, hrest⟩
    · exact (congrArg (· ++ _) (t.flushHeld_hostOut.trans h.hostOut)).trans (List.append_assoc ..)
    · exact (congrArg (· ++ _) (t.flushHeld_sessionOut.trans h.sessionOut)).trans (List.append_assoc ..)

/-! ### The bits of the counted bytes (43_codegen.md R243, 44_bitpacker.md R268) -/

/-- A sum over a list of bytes, collected by byte. -/
theorem sum_map_eq_sum_count (f : Byte → Nat) (bs : List Byte) :
    (bs.map f).sum = ((List.range 256).map fun k => bs.count (BitVec.ofNat 8 k) * f (BitVec.ofNat 8 k)).sum := by
  have hnodup : ((List.range 256).map (BitVec.ofNat 8)).Nodup :=
    List.nodup_range.map_on fun j hj k hk e => by
      have e := congrArg BitVec.toNat e
      rw [BitVec.toNat_ofNat, BitVec.toNat_ofNat] at e
      rw [List.mem_range] at hj hk
      omega
  have huniv : ((List.range 256).map (BitVec.ofNat 8)).toFinset = Finset.univ :=
    Finset.eq_univ_iff_forall.2 fun b => List.mem_toFinset.2 (List.mem_map.2 ⟨b.toNat, List.mem_range.2 b.isLt, by simp⟩)
  have hall := List.sum_toFinset (fun b => bs.count b * f b) hnodup
  rw [huniv, List.map_map] at hall
  refine Eq.trans ?_ hall
  rw [Finset.sum_list_map_count]
  exact Finset.sum_subset (Finset.subset_univ _) fun b _ hb => by
    rw [List.count_eq_zero_of_not_mem (mt List.mem_toFinset.2 hb), zero_smul]

/-- Settles O43: the ENCODEs write a code for each counted byte, and summed by byte their lengths are EXP_BITS. -/
theorem dataBitsEqualExpectedBits : Obligations.DataBitsEqualExpectedBits := by
  intro s bs hs hp hdata henc hfreq hcount hcoded hexp
  have hcoded' : ∀ b ∈ bs, s.codeLenAt b ≠ 0 := fun b hb => hcoded b fun h0 => by
    have hpos := List.count_pos_iff.2 hb
    rw [← hcount, h0] at hpos
    exact absurd hpos (by decide)
  have hbits : s.expBits.toNat = (bs.flatMap s.codeBits).length := by
    rw [State.toNat_expBits hexp, List.length_flatMap]
    simp only [length_codeBits, sum_map_eq_sum_count, hcount]
  have htotal : s.totalLen.toNat = bs.length := by
    have hone := sum_map_eq_sum_count (fun _ => 1) bs
    rw [List.map_const', List.sum_replicate, smul_eq_mul, mul_one] at hone
    rw [hfreq.1, s.freq.entries_eq_map 0, List.map_map, hone]
    simp only [mul_one, ← hcount]
    rfl
  have done {t : State} {popped : List Byte}
      (h : Packs s t popped (bs.flatMap s.codeBits) (bs.flatMap s.codeBits).length bs.length) :
      t.dataBits = s.expBits ∧ t.encCount = s.totalLen.setWidth 64 := by
    refine ⟨?_, ?_⟩
    · rw [h.dataBits, hdata, ← hbits, zero_add, BitVec.ofNat_toNat, BitVec.setWidth_eq]
    · rw [h.encCount, henc, ← htotal, zero_add, BitVec.ofNat_toNat]
  refine ⟨fun hroom => ?_, fun hdepth hq => ?_⟩
  · obtain ⟨t, ht, h⟩ := runCommands_encodes hs hp hcoded' hroom
    exact ⟨t, (congrArg (runCommands · s) (List.append_nil _)).symm.trans (ht []), done h⟩
  · obtain ⟨t, popped, ht, -, h⟩ := runDrained_encodes hs hp hcoded' hdepth hq
    exact ⟨t, (congrArg (runDrained · s) (List.append_nil _)).symm.trans (ht []), done h⟩

end Sys2Proof.Machine

namespace Sys2Proof.Machine

/-! ### Commands out of phase, NOP and CLEAR (45_control.md R300 to R304) -/

/-- A well-formed command that the phase does not admit raises SEQUENCE with its own word (45_control.md R301). -/
theorem exec_illegal_phase {i : Instr} {s : State} (he : s.errCode = .none) (hf : s.flight = .idle) (hw : i.wellFormed = true)
    (hl : legalIn i s.seqPhase = false) : exec i s = .next (s.raise .sequence (encode i)) := by
  cases i with
  | clear => exact nomatch hl
  | nop | flush | packRaw n r => exact accept_illegal_phase he hf hw hl
  | count b => rw [exec, execCount, accept_illegal_phase he hf hw hl]
  | build => rw [exec, execBuild, accept_illegal_phase he hf hw hl]
  | encode b => rw [exec, execEncode, accept_illegal_phase he hf hw hl]

/-- Settles O13: the table of legal phases turns each of these commands down, whatever its operand. -/
theorem outOfPhaseCommandsRaiseSequence : Obligations.OutOfPhaseCommandsRaiseSequence := by
  intro s he hf
  refine ⟨fun hready => ?_, fun hcollect => ?_⟩
  · have hne : decide (s.seqPhase = .collect) = false := by rw [hready]; rfl
    exact ⟨fun _ => exec_illegal_phase he hf rfl hne, exec_illegal_phase he hf rfl hne⟩
  · have hne : decide (s.seqPhase = .ready) = false := by rw [hcollect]; rfl
    exact ⟨fun _ => exec_illegal_phase he hf rfl hne, exec_illegal_phase he hf rfl hne,
      fun _ _ hw => exec_illegal_phase he hf hw hne⟩

/-- Settles O15: NOP is legal in either phase, and its own rule keeps the state. -/
theorem nopChangesNothing : Obligations.NopChangesNothing :=
  fun _ he hf => exec_legal he hf rfl rfl

/-- STATUS reads nothing that CLEAR keeps but the open parameters (10_state.md R38). -/
theorem status_clear {s : State} (hp : s.params.wf) : s.clear.status = 0 :=
  have hreset : s.clear.status = (State.resetAt s.params).status := rfl
  hreset.trans (status_resetAt hp)

/-- Settles O16: CLEAR makes no check, and each element has its value by the laws of `State.clear`. -/
theorem clearEndsTheSession : Obligations.ClearEndsTheSession := by
  intro s
  have hbusy : s.clear.busy = false := State.busy_eq_false.2 s.clear_flight
  have hstatus : s.params.wf → s.clear.status = 0 := status_clear
  exact ⟨s.clear, rfl, by simpa [hbusy] using hstatus⟩

end Sys2Proof.Machine

namespace Sys2Proof.Machine

/-! ### The header and the records of FILE (46_host_serializer.md R321, R322) -/

theorem recordsFrom_zero (s : Nat) (fs : List Word) : recordsFrom s (0 :: fs) = recordsFrom (s + 1) fs := if_pos rfl

theorem recordsFrom_ne_zero {f : Word} (hf : f ≠ 0) (s : Nat) (fs : List Word) :
    recordsFrom s (f :: fs) = record s f ++ recordsFrom (s + 1) fs := if_neg hf

/-- A record of five bytes for each nonzero frequency. -/
theorem length_recordsFrom (s : Nat) (fs : List Word) :
    (recordsFrom s fs).length = 5 * fs.countP (fun f => decide (f ≠ 0)) := by
  induction fs generalizing s with
  | nil => rfl
  | cons f fs ih =>
    by_cases hf : f = 0
    · rw [hf, recordsFrom_zero, ih, List.countP_cons_of_neg (by simp)]
    · rw [recordsFrom_ne_zero hf, List.length_append, ih, List.countP_cons_of_pos (by simpa using hf), Nat.mul_succ, Nat.add_comm]
      rfl

/-- The records are those of the symbols with nonzero frequency, in ascending order. -/
theorem recordsFrom_map_range' (g : Nat → Word) (s n : Nat) :
    recordsFrom s ((List.range' s n).map g) =
      ((List.range' s n).filter fun k => decide (g k ≠ 0)).flatMap fun k => record k (g k) := by
  induction n generalizing s with
  | zero => rfl
  | succ n ih =>
    rw [List.range'_succ, List.map_cons]
    by_cases hg : g s = 0
    · rw [hg, recordsFrom_zero, ih, List.filter_cons_of_neg (by simpa using hg)]
    · rw [recordsFrom_ne_zero hg, ih, List.filter_cons_of_pos (by simpa using hg), List.flatMap_cons]

/-- The records of a frequency table, symbol by symbol. -/
theorem recordsFrom_entries (s : State) :
    recordsFrom 0 s.freq.entries =
      ((List.range 256).filter fun k => decide (s.freqAt (BitVec.ofNat 8 k) ≠ 0)).flatMap
        fun k => record k (s.freqAt (BitVec.ofNat 8 k)) := by
  rw [s.freq.entries_eq_map 0, List.range_eq_range']
  exact recordsFrom_map_range' _ 0 256

/-- FILE is its header byte, the records and the packed bytes. -/
theorem fileOf_eq (nsym : BitVec 9) (freq : Table Word 256) (packed : List Byte) :
    fileOf nsym freq packed = BitVec.ofNat 8 (nsym.toNat % 256) :: (recordsFrom 0 freq.entries ++ packed) := by
  have hbyte : (nsym.setWidth 32).setWidth 8 = BitVec.ofNat 8 (nsym.toNat % 256) := by
    apply BitVec.eq_of_toNat_eq
    simp only [BitVec.toNat_setWidth, BitVec.toNat_ofNat]
    omega
  rw [fileOf, headerBytes, hbyte]
  rfl

/-! ### The reads of a script, at any paces (46_host_serializer.md R320) -/

/-- The first statement of a script takes the first pace, or `full` where none is given. -/
theorem scriptAccesses_cons (p : Params) (st : Stmt) (script : List Stmt) (paces : List Pace) :
    scriptAccesses p (st :: script) paces = ⟨st.op p, paces.headD .full⟩ :: scriptAccesses p script paces.tail := by
  cases paces <;> rfl

/-- The core as it is, with `q` next on the host's list, `p` the pace of its last access, and the values `vs` kept. -/
def State.afterReads (q : List HostAccess) (p : Pace) (vs : List Word) (s : State) : State :=
  { s with hostq := q, pace := p, hostRd := s.hostRd ++ vs }

/-- No register shows what the host has read or does next. -/
theorem regValue_afterReads (q : List HostAccess) (p : Pace) (vs : List Word) (s : State) (r : Reg) :
    (s.afterReads q p vs).regValue r = s.regValue r := by
  cases r <;> rfl

/-- The values of later reads stand after those of earlier ones. -/
theorem afterReads_afterReads (q q' : List HostAccess) (p p' : Pace) (vs ws : List Word) (s : State) :
    (s.afterReads q p vs).afterReads q' p' ws = s.afterReads q' p' (vs ++ ws) := by
  simp [State.afterReads]

/-- A read of any register but OUT_DATA with BUSY = 0 takes one step and leaves the core as it is. -/
theorem step_read_idle {s : State} {off : Nat} {p : Pace} {rest : List HostAccess} (hf : s.flight = .idle) (hlt : off < 0x8000)
    (hal : off % 4 = 0) (hne : off ≠ 0x0060) (hq : s.hostq = ⟨.read (s.params.huffBase + off) 4, p⟩ :: rest) :
    step s = .next (s.afterReads rest p [s.regValue (regAt off)]) := by
  have hread := hostRead_exact (s := s.afterReads rest p []) (fun e => hne (regAt_eq_outData e)) (.inl (State.busy_eq_false.2 hf))
  rw [regValue_afterReads, State.afterReads, List.append_nil] at hread
  have hidle : (s.afterReads rest p [s.regValue (regAt off)]).flight = .idle := hf
  exact (step_read hlt hal hq hread).trans (congrArg settle (advance_idle hidle))

/-- With BUSY = 0 a script that begins with reads returns the registers' values, in as many steps. -/
theorem run_reads {offs : List Nat} (hoffs : ∀ off ∈ offs, off < 0x8000 ∧ off % 4 = 0 ∧ off ≠ 0x0060) {s : State}
    (hf : s.flight = .idle) {script : List Stmt} {paces : List Pace} {rest : List HostAccess}
    (hq : s.hostq = scriptAccesses s.params (offs.map .rd ++ script) paces ++ rest) (k : Nat) :
    ∃ paces' p, Host.Core.run core (k + offs.length) s = Host.Core.run core k
      (s.afterReads (scriptAccesses s.params script paces' ++ rest) p (offs.map fun off => s.regValue (regAt off))) := by
  induction offs generalizing s paces with
  | nil =>
    have hs : s.afterReads (scriptAccesses s.params script paces ++ rest) s.pace [] = s := by
      rw [State.afterReads, List.append_nil]
      exact congrArg (fun q => { s with hostq := q }) hq.symm
    exact ⟨paces, s.pace, congrArg _ hs.symm⟩
  | cons off offs ih =>
    obtain ⟨⟨hlt, hal, hne⟩, hoffs⟩ := List.forall_mem_cons.1 hoffs
    rw [List.map_cons, List.cons_append, scriptAccesses_cons] at hq
    have hstep := step_read_idle hf hlt hal hne hq
    obtain ⟨paces', p, hrun⟩ := ih hoffs (s := s.afterReads
      (scriptAccesses s.params (offs.map .rd ++ script) paces.tail ++ rest) (paces.headD .full) [s.regValue (regAt off)]) hf rfl
    simp only [regValue_afterReads, afterReads_afterReads] at hrun
    exact ⟨paces', p, (run_step (k + offs.length) hstep).trans hrun⟩

/-! ### The header from the reads of NSYM and FREQ (46_host_serializer.md R320, R323) -/

/-- The window offsets that `tableReads` reads: NSYM, then FREQ[0..255]. -/
def tableOffsets : List Nat := 0x001C :: (List.range 256).map fun i => 0x0400 + 4 * i

theorem tableReads_eq : tableReads = tableOffsets.map .rd := by
  simp [tableReads, tableOffsets]

theorem length_tableOffsets : tableOffsets.length = headerReads := by
  simp [tableOffsets, headerReads, Config.nsymMax]

/-- They are offsets of the window, and none pops a byte. -/
theorem tableOffsets_legal : ∀ off ∈ tableOffsets, off < 0x8000 ∧ off % 4 = 0 ∧ off ≠ 0x0060 := by
  refine List.forall_mem_cons.2 ⟨by decide, List.forall_mem_map.2 fun i hi => ?_⟩
  have := List.mem_range.1 hi
  omega

/-- What stands there: NSYM and the frequency table. -/
theorem regValue_tableOffsets (s : State) :
    (tableOffsets.map fun off => s.regValue (regAt off)) = s.nsym.setWidth 32 :: s.freq.entries := by
  have hfreq : (List.range 256).map (fun i => s.regValue (regAt (0x0400 + 4 * i))) = s.freq.entries := by
    rw [← map_range_getD s.freq.entries 0, s.freq.size_eq]
    refine List.map_congr_left fun i hi => ?_
    rw [regAt_freq (List.mem_range.1 hi)]
    rfl
  rw [tableOffsets, List.map_cons, List.map_map]
  exact congrArg _ hfreq

/-- The serializer takes the values read last, whatever was read before. -/
theorem lastReads_append {vs : List Word} (h : vs.length = headerReads) (old : List Word) : lastReads (old ++ vs) = vs := by
  rw [lastReads, List.reverse_append, List.take_left' (by rw [List.length_reverse, h]), List.reverse_reverse]

/-- Step 3 of R323 with BUSY = 0: the header and the records are written, and nothing else changes. -/
theorem step_writeHeader_idle {s : State} {p : Pace} {rest : List HostAccess} (hf : s.flight = .idle)
    (hq : s.hostq = ⟨.writeHeader, p⟩ :: rest) :
    step s = .next { s with hostq := rest, pace := p, file := headerBytes (lastReads s.hostRd) } := by
  rw [step_access hq]
  have hidle : (State.writeHeader { s with hostq := rest, pace := p }).flight = .idle := hf
  exact congrArg settle (advance_idle hidle)

/-- The reads of NSYM and FREQ and step 3 write the header and the records of the tables, at any paces. -/
theorem run_tableReads_writeHeader {s : State} {paces : List Pace} {rest : List HostAccess} (hf : s.flight = .idle)
    (hq : s.hostq = scriptAccesses s.params (tableReads ++ [.writeHeader]) paces ++ rest) :
    ∃ p, Host.Core.run core 258 s = .next { s with
      hostq := rest, pace := p, hostRd := s.hostRd ++ s.nsym.setWidth 32 :: s.freq.entries, file := fileOf s.nsym s.freq [] } := by
  rw [tableReads_eq] at hq
  obtain ⟨paces', p, hrun⟩ := run_reads tableOffsets_legal hf hq 1
  rw [length_tableOffsets, regValue_tableOffsets, scriptAccesses_cons] at hrun
  have hlast : lastReads (s.hostRd ++ s.nsym.setWidth 32 :: s.freq.entries) = s.nsym.setWidth 32 :: s.freq.entries :=
    lastReads_append (by rw [List.length_cons, s.freq.size_eq]; rfl) _
  have hidle (q : List HostAccess) (vs : List Word) : (s.afterReads q p vs).flight = .idle := hf
  refine ⟨paces'.headD .full, hrun.trans ((run_step 0 (step_writeHeader_idle (hidle _ _) rfl)).trans ?_)⟩
  rw [State.afterReads, hlast, fileOf, List.append_nil]
  rfl

/-- Settles O60: FILE is its header byte and its records, the 257 reads leave just the values these are written from, and step 3 writes
them. -/
theorem fileHasHeaderRecordsAndStream : Obligations.FileHasHeaderRecordsAndStream := by
  refine ⟨fun s packed hs => ?_, fun s paces rest hb hq => ?_, fun s p rest hq => step_access hq⟩
  · obtain ⟨-, hnsym⟩ := hs
    have hlen : (recordsFrom 0 s.freq.entries).length = 5 * s.nsym.toNat := by rw [length_recordsFrom, hnsym]; rfl
    rw [fileOf_eq]
    refine ⟨?_, rfl, ?_, ?_⟩
    · rw [List.length_cons, List.length_append, hlen]; omega
    · rw [Nat.add_comm, List.drop_succ_cons]; exact List.drop_left' hlen
    · exact congrArg (· ++ packed) (recordsFrom_entries s)
  · obtain ⟨p, hrun⟩ := run_tableReads_writeHeader (State.busy_eq_false.1 hb) hq
    exact ⟨_, hrun, rfl, rfl⟩

end Sys2Proof.Machine

namespace Sys2Proof.Machine

/-! ### The first checks of a command word (60_exceptions.md R341 to R345) -/

/-- Every word but the exact CLEAR word meets the checks of ERR_CODE and BUSY before anything else. -/
theorem command_receives {w : Word} (hw : w ≠ 0x00000001) (s : State) : ∃ k, command w s = receive w k s := by
  cases hd : decode w with
  | error e => exact ⟨_, by rw [command, hd, rejectWord]⟩
  | ok i =>
    obtain ⟨rfl, -⟩ := decode_eq_ok_iff.1 hd
    cases i with
    | clear => exact absurd rfl hw
    | nop | count b | build | encode b | flush | packRaw n r => exact ⟨_, by rw [command, hd]; rfl⟩

/-- In ERROR the word is ignored (60_exceptions.md R344). -/
theorem command_error {w : Word} (hw : w ≠ 0x00000001) {s : State} (he : s.errCode ≠ .none) : command w s = settle (advance s) := by
  obtain ⟨k, hk⟩ := command_receives hw s
  rw [hk, receive_error he]

/-- While BUSY = 1 the word is dropped (60_exceptions.md R345). -/
theorem command_busy {w : Word} (hw : w ≠ 0x00000001) {s : State} (he : s.errCode = .none) (hb : s.busy = true) :
    command w s = settle (advance (s.raise .busyViolation w)) := by
  obtain ⟨k, hk⟩ := command_receives hw s
  rw [hk, receive_busy he hb]

/-- Settles O10: an ignored word lets the core go on, whose steps write neither error register. -/
theorem errorStateIgnoresEveryWord : Obligations.ErrorStateIgnoresEveryWord := by
  intro w s he hw
  refine ⟨command_error hw he, fun hf => ?_, fun t ht => ?_⟩
  · rw [command_error hw he, advance_idle hf, settle_ok]
  · rw [command_error hw he, settle_eq_next] at ht
    obtain ⟨-, -, -, hcode, hcmd, -⟩ := advance_frame ht
    exact ⟨hcode, hcmd⟩

/-- Settles O12: the dropped word writes the error registers alone, and no step of the core reads them. -/
theorem busyViolationDropsTheWord : Obligations.BusyViolationDropsTheWord := by
  intro w s hb hw
  refine ⟨command_error hw, fun he => ⟨command_busy hw he hb, rfl, fun k t hk => ⟨?_, rfl⟩⟩⟩
  obtain ⟨-, -, -, -, -, -, hpace, -⟩ := coreSteps_frame hk
  have hsame : { t with errCode := .busyViolation, errCmd := w } = t.withErrPace .busyViolation w s.pace := by rw [← hpace]; rfl
  rw [hsame]
  exact coreSteps_withErrPace .busyViolation w s.pace hk

/-- Settles O9: the first three checks are those of every word, and the last two those of a decoded command. -/
theorem commandChecksInOrder : Obligations.CommandChecksInOrder := by
  refine ⟨fun p b n r => by simp [legalIn], fun w s => ?_⟩
  split_ifs with hw he hb
  · rw [hw]; rfl
  · exact command_error hw he
  · exact command_busy hw (not_not.1 he) hb
  · have he : s.errCode = .none := not_not.1 he
    have hf : s.flight = .idle := State.busy_eq_false.1 (Bool.eq_false_iff.2 hb)
    cases hd : decode w with
    | error e =>
      rw [command, hd]
      exact receive_ready he hf
    | ok i =>
      obtain ⟨rfl, hi⟩ := decode_eq_ok_iff.1 hd
      simp only [command, hd]
      split_ifs with hl
      · exact exec_legal he hf hi hl
      · exact exec_illegal_phase he hf hi (Bool.eq_false_iff.2 hl)

/-! ### Precise errors (60_exceptions.md R343) -/

theorem launch_errCode {f : Flight} {s t : State} (h : launch f s = .next t) : t.errCode = s.errCode := by
  obtain ⟨-, -, -, hcode, -⟩ := advance_frame (settle_eq_next.1 h)
  exact hcode

/-- A command's own rule raises its error, or leaves none. -/
theorem familyRule_no_error_or_raise {i : Instr} {w : Word} {s t : State} (he : s.errCode = .none) (h : familyRule i w s = .next t) :
    t.errCode = .none ∨ ∃ c, t = s.raise c w := by
  have raised {c : ErrCode} (h : (.next (s.raise c w) : Answer) = .next t) : ∃ c, t = s.raise c w :=
    ⟨c, (Host.Outcome.next.inj h).symm⟩
  cases i with
  | nop => exact .inl (Host.Outcome.next.inj h ▸ he)
  | clear => exact .inl (Host.Outcome.next.inj h ▸ rfl)
  | count b | build | encode b =>
    rw [familyRule] at h
    split at h
    · exact .inr (raised h)
    · exact .inl ((launch_errCode h).trans he)
  | flush | packRaw n r => exact .inl ((launch_errCode h).trans he)

/-- Settles O14: with BUSY = 0 each check that fails raises its error in the state as it was. -/
theorem errorsArePrecise : Obligations.ErrorsArePrecise := by
  intro w s t he hb h hne
  have hraise : ∃ c, t = s.raise c w := by
    rw [commandChecksInOrder.2] at h
    split at h
    · exact absurd (Host.Outcome.next.inj h ▸ rfl) hne
    · rw [if_neg (not_not.2 he), if_neg (Bool.eq_false_iff.1 hb)] at h
      split at h
      · exact ⟨_, (Host.Outcome.next.inj h).symm⟩
      · split at h
        · exact (familyRule_no_error_or_raise he h).resolve_left hne
        · exact ⟨_, (Host.Outcome.next.inj h).symm⟩
  obtain ⟨c, rfl⟩ := hraise
  exact ⟨rfl, decide_eq_true hne, if_pos hne⟩

/-- Settles O59: with no access pending the step is the core's own, and there is no command in flight. -/
theorem idleCoreDoesNothing : Obligations.IdleCoreDoesNothing := by
  intro s hb hq
  unfold step
  rw [hq, coreStep_idle (State.busy_eq_false.1 hb), settle_ok]

end Sys2Proof.Machine

namespace Sys2Proof.Machine

/-! ### No internal fault (60_exceptions.md R357)

The core faults in BUILD alone, which completes from the invariant; and every access hands the core a state that meets it. -/

theorem State.CoreInv.coreStep_ok {s : State} (h : s.CoreInv) : ∃ t, coreStep s = .ok t := by
  cases hstep : coreStep s with
  | ok t => exact ⟨t, rfl⟩
  | error f =>
    obtain ⟨hf, hfault⟩ := coreStep_fault hstep
    obtain ⟨-, hfreq, hfits, -⟩ := h
    simp only [State.flightFits, hf, decide_eq_true_eq] at hfits
    obtain ⟨u, hu, -⟩ := State.buildCodes_completes hfreq hfits.2
    cases hu.symm.trans hfault

theorem State.CoreInv.coreSteps_ok {s : State} (h : s.CoreInv) (k : Nat) : ∃ t, coreSteps k s = .ok t := by
  induction k generalizing s with
  | zero => exact ⟨s, rfl⟩
  | succ k ih =>
    obtain ⟨u, hu⟩ := h.coreStep_ok
    simp only [coreSteps, hu]
    exact ih (coreInv_coreStep h hu)

theorem State.CoreInv.advance_ok {s : State} (h : s.CoreInv) : ∃ t, advance s = .ok t := by
  rw [advance_eq]
  exact h.coreSteps_ok _

/-- The answer is not a fault. -/
def Faultless (a : Answer) : Prop := ∀ f, a ≠ .fault f

theorem faultless_next (s : State) : Faultless (.next s) := nofun

theorem faultless_refused (r : Refusal) : Faultless (.refused r) := nofun

/-- From the invariant the core moves on at any pace. -/
theorem State.CoreInv.faultless_advance {s : State} (h : s.CoreInv) : Faultless (settle (advance s)) := by
  obtain ⟨t, ht⟩ := h.advance_ok
  rw [ht]
  exact faultless_next t

theorem State.CoreInv.faultless_launch {f : Flight} {s : State} (h : s.CoreInv) (hf : State.flightFits { s with flight := f } = true) :
    Faultless (launch f s) := by
  obtain ⟨hwf, hfreq, -, hrest⟩ := h
  exact State.CoreInv.faultless_advance (s := { s with flight := f }) ⟨hwf, hfreq, hf, hrest⟩

/-- A command that is legal in the phase goes in flight only when it fits (60_exceptions.md R341, R342). -/
theorem State.CoreInv.faultless_familyRule {i : Instr} {s : State} (h : s.CoreInv) (hl : legalIn i s.seqPhase = true) (w : Word) :
    Faultless (familyRule i w s) := by
  cases i with
  | nop | clear => exact faultless_next _
  | count b =>
    rw [familyRule]
    split
    · exact faultless_next _
    · exact h.faultless_launch (decide_eq_true ⟨of_decide_eq_true hl, ‹_›⟩)
  | build =>
    rw [familyRule]
    split
    · exact faultless_next _
    · exact State.CoreInv.faultless_launch (s := { s with tieUsed := s.tie }) h (decide_eq_true ⟨of_decide_eq_true hl, ‹_›⟩)
  | encode b =>
    rw [familyRule]
    split
    · exact faultless_next _
    · exact h.faultless_launch hl
  | flush | packRaw n r => exact h.faultless_launch hl

theorem State.CoreInv.faultless_command {s : State} (h : s.CoreInv) (w : Word) : Faultless (command w s) := by
  rw [commandChecksInOrder.2]
  split
  · exact faultless_next _
  · split
    · exact h.faultless_advance
    · rename_i he
      split
      · exact ((Prepared.start.raise .busyViolation w (not_not.1 he) (by decide)).coreInv h).faultless_advance
      · split
        · exact faultless_next _
        · split
          · exact h.faultless_familyRule ‹_› w
          · exact faultless_next _

theorem coreInv_hostRead {s : State} (h : s.CoreInv) (r : Reg) : (hostRead r s).1.CoreInv := by
  unfold hostRead
  split
  · exact coreInv_popOut h
  · split
    · exact h
    · exact h

theorem State.CoreInv.faultless_hostWrite {s : State} (h : s.CoreInv) (r : Reg) (v : Word) : Faultless (hostWrite r v s) := by
  unfold hostWrite
  split
  · exact State.CoreInv.faultless_advance (s := { s with tie := v.getLsbD 0 }) h
  · split
    · exact h.faultless_command v
    · exact h.faultless_advance

/-- A turn of WAIT or DRAIN that pops a byte and stays on the host's list. -/
theorem State.CoreInv.faultless_pop {s : State} (h : s.CoreInv) (q : List HostAccess) :
    Faultless (settle (advance { s.popOut with hostq := q })) :=
  State.CoreInv.faultless_advance (s := { s.popOut with hostq := q }) (coreInv_popOut h)

theorem State.CoreInv.faultless_hostStep {s : State} (h : s.CoreInv) (a : HostAccess) : Faultless (hostStep a s) := by
  obtain ⟨op, p⟩ := a
  cases op with
  | read addr width =>
    simp only [hostStep]
    split
    · exact faultless_refused _
    · exact State.CoreInv.faultless_advance (coreInv_hostRead h _)
  | write addr width v =>
    simp only [hostStep]
    split
    · exact faultless_refused _
    · exact h.faultless_hostWrite _ v
  | wait =>
    simp only [hostStep, hostWait]
    split
    · exact h.faultless_pop _
    · exact faultless_next _
  | drain =>
    simp only [hostStep, hostDrain]
    split
    · exact h.faultless_advance
    · exact h.faultless_pop _
  | reset => exact faultless_next _
  | writeHeader => exact State.CoreInv.faultless_advance (s := s.writeHeader) h
  | writePacked => exact State.CoreInv.faultless_advance (s := s.writePacked) h

/-- Settles O54: the core's own step succeeds, and so does what it makes of an access. -/
theorem noInternalFaultOccurs : Obligations.NoInternalFaultOccurs := by
  intro s f h
  cases hq : s.hostq with
  | nil =>
    obtain ⟨t, ht⟩ := h.coreStep_ok
    unfold step
    rw [hq, ht]
    exact faultless_next t f
  | cons a rest =>
    rw [step_access hq]
    exact State.CoreInv.faultless_hostStep (s := { s with hostq := rest, pace := a.pace }) h a f

end Sys2Proof.Machine

namespace Sys2Proof.Machine

/-! ### Reset, and a FIFO that never fills (70_reset_and_hazards.md R382, R392) -/

/-- CLEAR differs from reset in keeping CTRL.TIE. -/
theorem clear_eq_resetEvent (s : State) : s.clear = { s.resetEvent with tie := s.tie } := rfl

/-- Settles O17: the step of a reset leaves `State.resetEvent`, which CLEAR differs from in CTRL.TIE alone. -/
theorem resetIsClearWithTieZero : Obligations.ResetIsClearWithTieZero := by
  intro s p rest hq
  exact ⟨State.resetEvent { s with hostq := rest, pace := p }, step_access hq, State.resetEvent_tie _,
    congrArg Host.Outcome.next (clear_eq_resetEvent _)⟩

/-- Only a PACK_RAW can be such a term, and it is ILLEGAL (44_bitpacker.md R265). -/
theorem exec_malformed {i : Instr} {s : State} (he : s.errCode = .none) (hf : s.flight = .idle) (hw : i.wellFormed = false) :
    exec i s = .next (s.raise .illegalCommand (encode i)) := by
  cases i with
  | packRaw n r => exact accept_malformed he hf hw
  | nop | clear | count b | build | encode b | flush => exact nomatch hw

/-- With no error and no command in flight, a check turns the command down or its own rule answers (60_exceptions.md R341). -/
theorem exec_raises_or_familyRule (i : Instr) {s : State} (he : s.errCode = .none) (hf : s.flight = .idle) :
    (∃ c, exec i s = .next (s.raise c (encode i))) ∨ exec i s = familyRule i (encode i) s := by
  by_cases hw : i.wellFormed = true
  · by_cases hl : legalIn i s.seqPhase = true
    · exact .inr (exec_legal he hf hw hl)
    · exact .inl ⟨_, exec_illegal_phase he hf hw (Bool.eq_false_iff.2 hl)⟩
  · exact .inl ⟨_, exec_malformed he hf (Bool.eq_false_iff.2 hw)⟩

/-- BUSY is 0 in every state that the answer gives. -/
def Finishes (a : Answer) : Prop := ∀ t, a = .next t → t.busy = false

theorem finishes_of_next {a : Answer} {u : State} (ha : a = .next u) (hu : u.flight = .idle) : Finishes a := by
  rintro t rfl
  exact State.busy_eq_false.2 (Host.Outcome.next.inj ha ▸ hu)

theorem finishes_fault (f : Fault) : Finishes (.fault f) := by
  intro t h
  cases h

/-- BUILD's one step faults when its work does. -/
theorem coreStep_build_fault {s : State} {f : Fault} (hf : s.flight = .build) (hu : s.buildCodes = .error f) :
    coreStep s = .error f := by
  unfold coreStep; simp only [hf, hu]

section
variable {s : State} (hf : s.flight = .idle) (hp : s.pace = .full)
include hp

/-- At pace `full` BUILD has made its one step, or that step was a fault (60_exceptions.md R357). -/
theorem finishes_launch_build : Finishes (launch .build s) := by
  cases hu : (s.withFlight .build).buildCodes with
  | ok u => exact finishes_of_next (launch_of_length_one hp rfl (coreStep_build rfl hu)) rfl
  | error f =>
    have hfault : launch .build s = .fault f := by
      simp only [launch_full hp, Flight.length, coreSteps, coreStep_build_fault (s := s.withFlight .build) rfl hu, settle_error]
    exact hfault ▸ finishes_fault f

/-- FLUSH emits at most one byte, so one free place is enough. -/
theorem finishes_launch_flush (hroom : s.fifoFull = false) : Finishes (launch .flush s) :=
  finishes_of_next (launch_of_length_one hp rfl (coreStep_flush rfl (.inr hroom))) rfl

include hf

theorem finishes_launch_count (b : Byte) : Finishes (launch (.count b) s) := finishes_of_next (launch_count hf hp b) hf

/-- A write finishes with room for the bytes it completes. -/
theorem finishes_launch_write {bits : List Bool} (hroom : s.RoomFor bits.length) (n : Nat) (e : Bool) :
    Finishes (launch (.write bits n e) s) :=
  finishes_of_next (launch_write hf hp hroom) ((packs_write bits n e s).flight.trans hf)

end

/-- A drained FIFO of depth 32 or more has room for the bits of any PACK_RAW. -/
theorem roomFor_rawBits_of_drained {s : State} (hd : 32 ≤ s.params.outFifoDepth) (hq : s.outq = []) (n : BitVec 5) (r : BitVec 16) :
    s.RoomFor (rawBits n r).length := by
  have h1 := s.bitcnt.isLt
  have h2 := n.isLt
  rw [State.RoomFor, hq, length_rawBits, List.length_nil]
  omega

/-- A drained FIFO of depth 32 or more has room for every byte that a command's own rule emits. -/
theorem finishes_familyRule (i : Instr) (w : Word) {s : State} (hf : s.flight = .idle) (hp : s.pace = .full)
    (hd : 32 ≤ s.params.outFifoDepth) (hq : s.outq = []) : Finishes (familyRule i w s) := by
  cases i with
  | nop => exact finishes_of_next rfl hf
  | clear => exact finishes_of_next rfl s.clear_flight
  | count b =>
    rw [familyRule]
    split
    · exact finishes_of_next rfl hf
    · exact finishes_launch_count hf hp b
  | build =>
    rw [familyRule]
    split
    · exact finishes_of_next rfl hf
    · exact finishes_launch_build (s := { s with tieUsed := s.tie }) hp
  | encode b =>
    rw [familyRule]
    split
    · exact finishes_of_next rfl hf
    · exact finishes_launch_write hf hp (roomFor_of_drained hd hq b) _ true
  | flush =>
    have hroom : s.outq.length < s.params.outFifoDepth := by rw [hq, List.length_nil]; omega
    exact finishes_launch_flush hp (fifoFull_eq_false.2 hroom)
  | packRaw n r => exact finishes_launch_write hf hp (roomFor_rawBits_of_drained hd hq n r) _ false

/-- Settles O40: a check that fails leaves nothing in flight, and the command's own rule has room for all it emits. -/
theorem deepDrainedFifoNeverStalls : Obligations.DeepDrainedFifoNeverStalls := by
  intro i s t he hf hp hd hq h
  rcases exec_raises_or_familyRule i he hf with ⟨c, hc⟩ | hrule
  · exact finishes_of_next hc hf t h
  · exact finishes_familyRule i (encode i) hf hp hd hq t (hrule.symm.trans h)

end Sys2Proof.Machine
